-- ==== Sys2Proof/Word.lean ====
section
/-!
DEFINITION. The widths of the values the block moves: a pulse duration (R6 `DUR_W`), the input port word (R81)
and the event kind code (R92, R93). Every value is moved whole; there are no bytes (R61).
-/

namespace Sys2Proof

/-- A pulse duration in microseconds, 32-bit unsigned (R6, R83). -/
abbrev Dur := BitVec 32

/-- One input port word, `RST` bit 33, `VLD` bit 32, `DUR` bits 31:0 (R81). -/
abbrev PortWord := BitVec 34

/-- The event kinds of the output record (R92); code 3 is reserved (R93). -/
inductive EventKind where
  | switch
  | thermo
  | generic
  | reserved
  deriving DecidableEq, Repr, Inhabited

/-- The 2-bit kind codes (R92). -/
def EventKind.code : EventKind → BitVec 2
  | .switch => 0
  | .thermo => 1
  | .generic => 2
  | .reserved => 3

end Sys2Proof
end

