-- ==== Sys2Proof/Syntax.lean ====
section
/-!
DEFINITION. The instructions: one constructor per row of spec/opcode_table.json, and the words they are read from
(R80). Three rows are the port operations (R82). The other rows are the codes the classifier reads inside an
emitting step (R85 to R92); a model that runs one alone gets it as an input word of its own format (log 3).
-/

namespace Sys2Proof

/-- A word with its format (R80): the port word, or one code of the field it stands in. -/
inductive InputWord where
  /-- Format `port`, 34 bits (R81). -/
  | port (w : PortWord)
  /-- Format `halfpair`, first half then second, 1 = long (R85). -/
  | halfPair (w : BitVec 2)
  /-- Channel pair j = `b<2j..2j+1>` of `sw24` (R86, R87). -/
  | channel (j : Fin 5) (w : BitVec 2)
  /-- Button field `b<10..19>` of `sw24` (R88). -/
  | button (w : BitVec 10)
  /-- Power field `b<20..23>` of `sw24` (R89). -/
  | power (w : BitVec 4)
  /-- A whole `sw24` string, first-received bit most significant (R86, R62). -/
  | switchFrame (w : BitVec 24)
  /-- A whole `th24` string, first-received bit most significant (R90, R62). -/
  | thermoFrame (w : BitVec 24)
  /-- Battery field `b<16..19>` of `th24` (R90). -/
  | battery (w : BitVec 4)
  /-- The `kind` code of an event (R92). -/
  | eventKind (w : BitVec 2)
  deriving DecidableEq, Repr

/-- One constructor per row of spec/opcode_table.json. Ignored bits stay operands, so no bit of a word is dropped. -/
inductive Instr where
  /-- RESET; `VLD` and `DUR` are ignored (R82, R150). -/
  | reset (vld : Bool) (dur : Dur)
  /-- PULSE(DUR) (R82, R141). -/
  | pulse (dur : Dur)
  /-- NOP; `DUR` is ignored (R82, R151). -/
  | nop (dur : Dur)
  /-- Half pair (S, L): bit 0 (R85). -/
  | hpBit0
  /-- Half pair (L, S): bit 1 (R85). -/
  | hpBit1
  /-- Half pair (S, S): illegal (R85). -/
  | hpIllegalSS
  /-- Half pair (L, L): illegal (R85). -/
  | hpIllegalLL
  /-- A 24-bit switch string: channel pairs, button field, power field (R86, R203). -/
  | swFrame (chan btn : BitVec 10) (pwr : BitVec 4)
  /-- Channel pair j is "00" (R87, R200). -/
  | swChOn (j : Fin 5)
  /-- Channel pair j is "01" (R87, R200). -/
  | swChOff (j : Fin 5)
  /-- Channel pair j is "10" (R87, R200). -/
  | swChIllegal10 (j : Fin 5)
  /-- Channel pair j is "11" (R87, R200). -/
  | swChIllegal11 (j : Fin 5)
  /-- Button A, "0001010101" (R88, R201). -/
  | swBtnA
  /-- Button B, "0100010101" (R88, R201). -/
  | swBtnB
  /-- Button C, "0101000101" (R88, R201). -/
  | swBtnC
  /-- Button D, "0101010001" (R88, R201). -/
  | swBtnD
  /-- Button E, "0101010100" (R88, R201). -/
  | swBtnE
  /-- Any of the 1019 other button codes (R88, R201). -/
  | swBtnIllegal (code : BitVec 10)
  /-- Power code "0001" (R89, R202). -/
  | swPwrOn
  /-- Power code "0100" (R89, R202). -/
  | swPwrOff
  /-- Any of the 14 other power codes (R89, R202). -/
  | swPwrIllegal (code : BitVec 4)
  /-- A 24-bit thermometer string with a legal ID (R90, R209). -/
  | thFrame (id : BitVec 8) (sign : Bool) (mag : BitVec 7) (batt tenths : BitVec 4)
  /-- A 24-bit thermometer string whose ID is "11111111" (R91, R204). -/
  | thIdReserved (sign : Bool) (mag : BitVec 7) (batt tenths : BitVec 4)
  /-- Battery code "0000" (R90, R206). -/
  | thBattOk
  /-- Any other battery code (R90, R206). -/
  | thBattLow (code : BitVec 4)
  /-- Event kind 0, SwitchCommand (R92, R203). -/
  | evSwitch
  /-- Event kind 1, ThermometerReading (R92, R209). -/
  | evThermo
  /-- Event kind 2, GenericSignal (R92, R210). -/
  | evGeneric
  /-- Event kind 3, reserved: fault if seen (R93). -/
  | evReserved
  deriving DecidableEq, Repr

end Sys2Proof
end

