-- ==== Sys2Proof/WellFormed.lean ====
section
/-!
DEFINITION. Which terms of `Instr` stand for a row of the table: the operand of an "any other value" row is none of
the values that have a row of their own (R88, R89, R90, R91).
-/

namespace Sys2Proof

/-- The five legal button codes, A to E (R88), first-received bit most significant. -/
def legalButtonCodes : List (BitVec 10) :=
  [0b0001010101, 0b0100010101, 0b0101000101, 0b0101010001, 0b0101010100]

/-- The two legal power codes (R89). -/
def legalPowerCodes : List (BitVec 4) := [0b0001, 0b0100]

/-- The check, constructor by constructor. -/
def wellFormed : Instr → Bool
  | .swBtnIllegal code => !legalButtonCodes.contains code
  | .swPwrIllegal code => !legalPowerCodes.contains code
  | .thFrame id _ _ _ _ => id != 0xFF
  | .thBattLow code => code != 0
  | .reset _ _ | .pulse _ | .nop _ | .hpBit0 | .hpBit1 | .hpIllegalSS | .hpIllegalLL | .swFrame _ _ _
  | .swChOn _ | .swChOff _ | .swChIllegal10 _ | .swChIllegal11 _ | .swBtnA | .swBtnB | .swBtnC | .swBtnD | .swBtnE
  | .swPwrOn | .swPwrOff | .thIdReserved _ _ _ _ | .thBattOk | .evSwitch | .evThermo | .evGeneric | .evReserved => true

/-- A well-formed instruction. -/
abbrev WellFormed (i : Instr) : Prop := wellFormed i = true

end Sys2Proof
end

