-- ==== Sys2Proof/Decode.lean ====
section
/-!
DEFINITION. Decoding a word of each format (R81 to R92), total because no port word is illegal (R82) and every
field code has a row; the encoder after it; and the reading of the opcode table's bare bit patterns.
-/

namespace Sys2Proof

/-! ### Decoding -/

/-- A port word (R82): `RST = 1` overrides `VLD`. -/
def decodePort (w : PortWord) : Instr :=
  if w.getLsbD 33 then .reset (w.getLsbD 32) (w.extractLsb' 0 32)
  else if w.getLsbD 32 then .pulse (w.extractLsb' 0 32)
  else .nop (w.extractLsb' 0 32)

/-- A half-pair symbol (R85). -/
def decodeHalfPair (w : BitVec 2) : Instr :=
  if w = 0b01 then .hpBit0
  else if w = 0b10 then .hpBit1
  else if w = 0b00 then .hpIllegalSS
  else .hpIllegalLL

/-- Channel pair j (R87). -/
def decodeChannel (j : Fin 5) (w : BitVec 2) : Instr :=
  if w = 0b00 then .swChOn j
  else if w = 0b01 then .swChOff j
  else if w = 0b10 then .swChIllegal10 j
  else .swChIllegal11 j

/-- The button field (R88). -/
def decodeButton (w : BitVec 10) : Instr :=
  if w = 0b0001010101 then .swBtnA
  else if w = 0b0100010101 then .swBtnB
  else if w = 0b0101000101 then .swBtnC
  else if w = 0b0101010001 then .swBtnD
  else if w = 0b0101010100 then .swBtnE
  else .swBtnIllegal w

/-- The power field (R89). -/
def decodePower (w : BitVec 4) : Instr :=
  if w = 0b0001 then .swPwrOn
  else if w = 0b0100 then .swPwrOff
  else .swPwrIllegal w

/-- A switch string `cccccccccc bbbbbbbbbb pppp` (R86). -/
def decodeSwitchFrame (w : BitVec 24) : Instr :=
  .swFrame (w.extractLsb' 14 10) (w.extractLsb' 4 10) (w.extractLsb' 0 4)

/-- A thermometer string `iiiiiiii s mmmmmmm bbbb tttt` (R90); ID 0xFF is the reserved marker (R91). -/
def decodeThermoFrame (w : BitVec 24) : Instr :=
  if w.extractLsb' 16 8 = 0xFF then
    .thIdReserved (w.getLsbD 15) (w.extractLsb' 8 7) (w.extractLsb' 4 4) (w.extractLsb' 0 4)
  else
    .thFrame (w.extractLsb' 16 8) (w.getLsbD 15) (w.extractLsb' 8 7) (w.extractLsb' 4 4) (w.extractLsb' 0 4)

/-- The battery field (R90). -/
def decodeBattery (w : BitVec 4) : Instr :=
  if w = 0b0000 then .thBattOk else .thBattLow w

/-- The event kind code (R92, R93). -/
def decodeEventKind (w : BitVec 2) : Instr :=
  if w = 0 then .evSwitch
  else if w = 1 then .evThermo
  else if w = 2 then .evGeneric
  else .evReserved

/-- The instruction a word stands for, in the word's own format. -/
def decode : InputWord → Instr
  | .port w => decodePort w
  | .halfPair w => decodeHalfPair w
  | .channel j w => decodeChannel j w
  | .button w => decodeButton w
  | .power w => decodePower w
  | .switchFrame w => decodeSwitchFrame w
  | .thermoFrame w => decodeThermoFrame w
  | .battery w => decodeBattery w
  | .eventKind w => decodeEventKind w

/-! ### Encoding -/

/-- A port word from its three fields (R81). -/
def encodePort (rst vld : Bool) (dur : Dur) : PortWord :=
  ((BitVec.ofBool rst).setWidth 34 <<< 33) ||| ((BitVec.ofBool vld).setWidth 34 <<< 32) ||| dur.setWidth 34

/-- A switch string from its three fields (R86). -/
def encodeSwitchFrame (chan btn : BitVec 10) (pwr : BitVec 4) : BitVec 24 :=
  (chan.setWidth 24 <<< 14) ||| (btn.setWidth 24 <<< 4) ||| pwr.setWidth 24

/-- A thermometer string from its five fields (R90). -/
def encodeThermoFrame (id : BitVec 8) (sign : Bool) (mag : BitVec 7) (batt tenths : BitVec 4) : BitVec 24 :=
  (id.setWidth 24 <<< 16) ||| ((BitVec.ofBool sign).setWidth 24 <<< 15) ||| (mag.setWidth 24 <<< 8) |||
    (batt.setWidth 24 <<< 4) ||| tenths.setWidth 24

/-- The word of an instruction, in its row's format. -/
def encode : Instr → InputWord
  | .reset vld dur => .port (encodePort true vld dur)
  | .pulse dur => .port (encodePort false true dur)
  | .nop dur => .port (encodePort false false dur)
  | .hpBit0 => .halfPair 0b01
  | .hpBit1 => .halfPair 0b10
  | .hpIllegalSS => .halfPair 0b00
  | .hpIllegalLL => .halfPair 0b11
  | .swFrame chan btn pwr => .switchFrame (encodeSwitchFrame chan btn pwr)
  | .swChOn j => .channel j 0b00
  | .swChOff j => .channel j 0b01
  | .swChIllegal10 j => .channel j 0b10
  | .swChIllegal11 j => .channel j 0b11
  | .swBtnA => .button 0b0001010101
  | .swBtnB => .button 0b0100010101
  | .swBtnC => .button 0b0101000101
  | .swBtnD => .button 0b0101010001
  | .swBtnE => .button 0b0101010100
  | .swBtnIllegal code => .button code
  | .swPwrOn => .power 0b0001
  | .swPwrOff => .power 0b0100
  | .swPwrIllegal code => .power code
  | .thFrame id sign mag batt tenths => .thermoFrame (encodeThermoFrame id sign mag batt tenths)
  | .thIdReserved sign mag batt tenths => .thermoFrame (encodeThermoFrame 0xFF sign mag batt tenths)
  | .thBattOk => .battery 0b0000
  | .thBattLow code => .battery code
  | .evSwitch => .eventKind 0
  | .evThermo => .eventKind 1
  | .evGeneric => .eventKind 2
  | .evReserved => .eventKind 3

/-! ### The opcode table's bare bit patterns -/

/-- Why a bare bit pattern is no word of the table. -/
inductive TableReject where
  /-- No row of the table has this many bits (in whole bytes). -/
  | noRowOfThisWidth
  /-- A bit is set above the row's format. -/
  | bitsAboveFormat
  deriving DecidableEq, Repr

/-- A bare pattern of `nbits` bits as a word. The table's rows share patterns, so the format is chosen by the width
alone: 34 bits the port word, 24 bits `th24`, 10 bits the button field, 4 bits the power field, 2 bits the half-pair
symbol, and in one byte a half-pair symbol if it fits two bits, else a power code. DESIGN CHOICE (log 13). -/
def tableWord (nbits w : Nat) : Except TableReject InputWord :=
  match nbits with
  | 34 | 40 => if w < 2 ^ 34 then .ok (.port (BitVec.ofNat 34 w)) else .error .bitsAboveFormat
  | 24 => if w < 2 ^ 24 then .ok (.thermoFrame (BitVec.ofNat 24 w)) else .error .bitsAboveFormat
  | 10 | 16 => if w < 2 ^ 10 then .ok (.button (BitVec.ofNat 10 w)) else .error .bitsAboveFormat
  | 2 => if w < 2 ^ 2 then .ok (.halfPair (BitVec.ofNat 2 w)) else .error .bitsAboveFormat
  | 4 => if w < 2 ^ 4 then .ok (.power (BitVec.ofNat 4 w)) else .error .bitsAboveFormat
  | 8 =>
    if w < 2 ^ 2 then .ok (.halfPair (BitVec.ofNat 2 w))
    else if w < 2 ^ 4 then .ok (.power (BitVec.ofNat 4 w))
    else .error .bitsAboveFormat
  | _ => .error .noRowOfThisWidth

/-- The instruction this model's decoder reads from a bare bit pattern of the opcode table. -/
def decodeTableWord (nbits w : Nat) : Option Instr :=
  match tableWord nbits w with
  | .ok word => some (decode word)
  | .error _ => none

end Sys2Proof
end

