-- ==== Sys2Proof/Config.lean ====
section
/-!
DEFINITION. The configuration constants of the block (R6, R39, R40, R41), the values this hardware takes, and the
free values: what the spec leaves unspecified in the output record (R35, R92, 93_implementation_defined.md section 2)
and the bits a layout reads beyond a short frame.
-/

namespace Sys2Proof

/-- `CONFIRM_MODE` (R6, R41). -/
inductive ConfirmMode where
  | singleShot
  | double
  deriving DecidableEq, Repr

/-- `CHANNEL_POLARITY` (R6, R41, R87). -/
inductive ChannelPolarity where
  | onIs00
  | onIs01
  deriving DecidableEq, Repr

/-- A descriptor's field-extraction rule set (R39, R175). -/
inductive Layout where
  | switch
  | therm
  deriving DecidableEq, Repr

/-- The rows of the descriptor table, in registry order (R40, R171); GENERIC is no row (R39). -/
inductive DescName where
  | switch
  | thermA
  | thermB
  deriving DecidableEq, Repr

/-- One row of the descriptor table (R39); its `name` is the field of `Config` it stands in. -/
structure Descriptor where
  expectedLength : Nat
  syncDivisor : Nat
  syncMin : Nat
  syncMax : Nat
  threshUs : Nat
  layout : Layout
  deriving DecidableEq, Repr

/-- The whole parameter table as one argument (R6), constants fixed at elaboration (R39, R41). `registryOrder` lists
the descriptors in the order they are tried (R171); GENERIC accepts whatever reaches it, so it stands after them. -/
structure Config where
  durW : Nat
  longMinUs : Nat
  repeatTolUs : Nat
  frameLengths : List Nat
  maxAccum : Nat
  confirmMode : ConfirmMode
  channelPolarity : ChannelPolarity
  switchRow : Descriptor
  thermARow : Descriptor
  thermBRow : Descriptor
  registryOrder : List DescName
  deriving DecidableEq, Repr

/-- The row a name stands for (R39). -/
def Config.row (c : Config) : DescName → Descriptor
  | .switch => c.switchRow
  | .thermA => c.thermARow
  | .thermB => c.thermBRow

/-- This hardware's values (R6, R40, R41). -/
def Config.hardware : Config where
  durW := 32
  longMinUs := 5000
  repeatTolUs := 200
  frameLengths := [49, 65]
  maxAccum := 65
  confirmMode := .singleShot
  channelPolarity := .onIs00
  switchRow := ⟨49, 31, 300, 400, 700, .switch⟩
  thermARow := ⟨49, 31, 250, 260, 510, .therm⟩
  thermBRow := ⟨49, 31, 250, 260, 510, .therm⟩
  registryOrder := [.switch, .thermA, .thermB]

/-! The free values: one constant without a body for each payload field of the output record, applied to the
number of the draw (log 7). The spec: "their values are unspecified and a claim must not read them" (R35). -/

/-- `kind` where unspecified. -/
opaque Config.freeKind : Nat → EventKind
/-- `sw_ch` where unspecified. -/
opaque Config.freeSwCh : Nat → BitVec 5
/-- `sw_btn` where unspecified. -/
opaque Config.freeSwBtn : Nat → BitVec 3
/-- `sw_pwr` where unspecified. -/
opaque Config.freeSwPwr : Nat → Bool
/-- `th_id` where unspecified. -/
opaque Config.freeThId : Nat → BitVec 8
/-- `th_sign` where unspecified. -/
opaque Config.freeThSign : Nat → Bool
/-- `th_mag` where unspecified. -/
opaque Config.freeThMag : Nat → BitVec 7
/-- `th_tenths` where unspecified. -/
opaque Config.freeThTenths : Nat → BitVec 4
/-- `th_batt_low` where unspecified. -/
opaque Config.freeThBattLow : Nat → Bool
/-- `th_temp` where unspecified. -/
opaque Config.freeThTemp : Nat → BitVec 16
/-- `g_len` where unspecified. -/
opaque Config.freeGLen : Nat → Nat
/-- `g_frame[i]` where unspecified: the draw, then the index i. -/
opaque Config.freeGFrame : Nat → Nat → Dur
/-- Bit i of a bit string too short to hold it, which a layout of 24 bits reads (log 18). -/
opaque Config.freeBit : List Bool → Nat → Bool

end Sys2Proof
end

