-- ==== Sys2Proof/Machine/State.lean ====
section
/-!
DEFINITION. The state of the block (R30 to R35, R45), the classifier's local variables, the reasons a step can stop,
and the state after reset. Plain data throughout.
-/

namespace Sys2Proof.Machine

/-- `st` (R31). -/
inductive FramingState where
  | idle
  | accum
  | repeatPending
  /-- Code 3, which no rule writes (R31). -/
  | code3
  deriving DecidableEq, Repr

/-- The 2-bit encoding of `st` (R31). -/
def FramingState.code : FramingState → BitVec 2
  | .idle => 0
  | .accum => 1
  | .repeatPending => 2
  | .code3 => 3

/-- The buttons A to E (R88). -/
inductive Button where
  | a | b | c | d | e
  deriving DecidableEq, Repr

/-- Button index 0 (A) to 4 (E), as `sw_btn` gives it (R88, R92). -/
def Button.index : Button → BitVec 3
  | .a => 0
  | .b => 1
  | .c => 2
  | .d => 3
  | .e => 4

/-- The internal reject reasons (R242): values of a function inside one step, in no field of State. -/
inductive Reject where
  | len | sync | pair | chan | btn | pwr | idff
  deriving DecidableEq, Repr

/-- A decoded event (R92). Channel j is bit j of `channelMask`; the temperature is computed from the three fields of
a reading (R208). -/
inductive Event where
  | switchCommand (channelMask : BitVec 5) (button : Button) (powerOn : Bool)
  | thermometerReading (sensorId : BitVec 8) (sign : Bool) (mag : BitVec 7) (tenths : BitVec 4) (batteryLow : Bool)
  | genericSignal (rawFrame : List Dur)
  deriving DecidableEq, Repr

/-- `out`, the output record (R35, R92). `gFrame` lists `g_frame`, MAX_ACCUM entries (65 in this hardware), and `gLen`
is a count like `cnt` (log 11, log 19). -/
structure OutRecord where
  evValid : Bool
  kind : EventKind
  swCh : BitVec 5
  swBtn : BitVec 3
  swPwr : Bool
  thId : BitVec 8
  thSign : Bool
  thMag : BitVec 7
  thTenths : BitVec 4
  thBattLow : Bool
  thTemp : BitVec 16
  gLen : Nat
  gFrame : List Dur
  deriving DecidableEq, Repr

/-- The MODEL's own record (log 3): the local variables of the classifier's pseudocode, on which the field-code rows
act. `turn` is the place in the registry of the descriptor being tried (R170), `bits` the string `b<0..k-1>` read so
far (R174); then the locals of R200 to R207. No port operation reads or writes it. -/
structure Attempt where
  turn : Nat
  bits : List Bool
  ch : BitVec 5
  btn : Button
  pwr : Bool
  id : BitVec 8
  sign : Bool
  mag : BitVec 7
  battLow : Bool
  tenths : BitVec 4
  deriving DecidableEq, Repr

/-- The state. `st`, `cnt`, `buf`, `fbuf`, `flen`, `out` are the spec's (R30). `cfg` holds the constants of R39 to R41,
which no operation writes (log 1). `input` (log 2), `att` (log 3) and `draws` (log 7) are the model's own. -/
structure State where
  st : FramingState
  cnt : Nat
  buf : List Dur
  fbuf : List Dur
  flen : Nat
  out : OutRecord
  cfg : Config
  input : List InputWord
  att : Attempt
  draws : Nat
  deriving DecidableEq, Repr

/-- Why the machine stops with a fault. -/
inductive Fault where
  /-- `st` holds code 3 (R31). Raised by PULSE, and by `step` before any word is consumed. Safe: the model stops
  where the spec says the state is outside the specification. -/
  | framingStateThree
  /-- Event kind 3 is seen (R93). Raised by EV_RESERVED, and by `step` in a state whose `out` shows it with
  `ev_valid = 1`. Safe: the model stops where the spec says to treat it as a fault. -/
  | reservedEventKind
  deriving DecidableEq, Repr

/-- Why the machine refuses. -/
inductive Refusal where
  /-- An instruction without a meaning yet. Raised by `exec`'s arms only; no arm raises it now. Safe. -/
  | notModelled (mnemonic : String)
  /-- The configuration breaks R42 (R7). Raised by `step` before any word is consumed. Safe. -/
  | illegalConfiguration
  deriving DecidableEq, Repr

/-- `out` after reset, with `n` frame entries: `ev_valid = 0` (R45). DESIGN CHOICE: the payload, which R45 leaves
unspecified, is zero (log 5). -/
def OutRecord.reset (n : Nat) : OutRecord where
  evValid := false
  kind := .switch
  swCh := 0
  swBtn := 0
  swPwr := false
  thId := 0
  thSign := false
  thMag := 0
  thTenths := 0
  thBattLow := false
  thTemp := 0
  gLen := 0
  gFrame := List.replicate n 0

/-- The classifier's locals before any code. DESIGN CHOICE (log 6): the first turn, the rest zero. -/
def Attempt.reset : Attempt where
  turn := 0
  bits := []
  ch := 0
  btn := .a
  pwr := false
  id := 0
  sign := false
  mag := 0
  battLow := false
  tenths := 0

/-- The state after reset of the block with these constants (R7, R45, R271). DESIGN CHOICE: buffer entries are zero
(log 4); the input queue is empty (log 2); `draws` is 0 (log 7). -/
def State.resetWith (c : Config) : State where
  st := .idle
  cnt := 0
  buf := List.replicate c.maxAccum 0
  fbuf := List.replicate c.maxAccum 0
  flen := 0
  out := OutRecord.reset c.maxAccum
  cfg := c
  input := []
  att := Attempt.reset
  draws := 0

/-- The state of this hardware after reset (R45, R40, R41). -/
def State.reset : State :=
  State.resetWith Config.hardware

end Sys2Proof.Machine
end

