-- ==== Sys2Proof/Machine/Operands.lean ====
section
/-!
DEFINITION. Operand assembly: bit strings in reception order, their substrings and their unsigned value (R8, R62,
R95). A bit string is a list of bits, first received first.
-/

namespace Sys2Proof.Machine

/-- The bits of a field code in reception order: the first-received bit is the most significant (R62). -/
def bitsOf {n : Nat} (w : BitVec n) : List Bool :=
  (List.range n).map w.getMsbD

/-- `u(s)`: the unsigned value, first bit most significant (R8, R62). -/
def bitsValue (s : List Bool) : Nat :=
  s.foldl (fun v b => 2 * v + b.toNat) 0

/-- `b<i..j>`: bits i to j inclusive (R8). -/
def bitSlice (b : List Bool) (i j : Nat) : List Bool :=
  (b.drop i).take (j + 1 - i)

/-- The string a 24-bit layout reads. A frame of fewer than 49 entries, which only another revision's row expects, spells
fewer bits, and the spec states no value for the others: each is a free value of the string and its index. DESIGN
CHOICE (log 18), and so is that of a longer string the layout reads the first 24 bits. -/
def layoutBits (b : List Bool) : List Bool :=
  b ++ (List.range (24 - b.length)).map (fun i => Config.freeBit b (b.length + i))

/-- `b<i>` (R8). -/
def bitAt (b : List Bool) (i : Nat) : Bool :=
  b.getD i false

end Sys2Proof.Machine
end

