-- ==== Sys2Proof/Machine/FieldCheck.lean ====
section
/-!
DEFINITION. Field extraction and the checksum verifier (R200 to R212): how a bit string becomes a switch command or a
thermometer reading, and which checks reject it. There is no arithmetic checksum (R211).
-/

namespace Sys2Proof.Machine

/-! ### Switch layout -/

/-- One channel pair under the configured polarity (R87, R200). -/
def channelState (c : Config) (p : List Bool) : Except Reject Bool :=
  let codes : List Bool × List Bool :=
    match c.channelPolarity with
    | .onIs00 => ([false, false], [false, true])
    | .onIs01 => ([false, true], [false, false])
  if p = codes.1 then .ok true
  else if p = codes.2 then .ok false
  else .error .chan

/-- The five channel states as `sw_ch`, bit j for channel j (R92). -/
def packChannels (c0 c1 c2 c3 c4 : Bool) : BitVec 5 :=
  BitVec.ofNat 5 (c0.toNat + 2 * c1.toNat + 4 * c2.toNat + 8 * c3.toNat + 16 * c4.toNat)

/-- `SwitchChannels(b)` (R200), pairs 0 to 4 in order (R212). -/
def switchChannels (c : Config) (b : List Bool) : Except Reject (BitVec 5) := do
  let c0 ← channelState c (bitSlice b 0 1)
  let c1 ← channelState c (bitSlice b 2 3)
  let c2 ← channelState c (bitSlice b 4 5)
  let c3 ← channelState c (bitSlice b 6 7)
  let c4 ← channelState c (bitSlice b 8 9)
  pure (packChannels c0 c1 c2 c3 c4)

/-- The pairs of a 10-bit button field, in order, each with the button it stands for (R88). -/
def buttonPairs (f : List Bool) : List (Button × List Bool) :=
  [(.a, bitSlice f 0 1), (.b, bitSlice f 2 3), (.c, bitSlice f 4 5), (.d, bitSlice f 6 7), (.e, bitSlice f 8 9)]

/-- The loop of `SwitchButton` (R201): `zeros` pairs "00" seen so far, the last at `btn`. -/
def scanButtonPairs (zeros : Nat) (btn : Button) : List (Button × List Bool) → Except Reject (Nat × Button)
  | [] => .ok (zeros, btn)
  | (k, p) :: rest =>
    if p = [false, false] then scanButtonPairs (zeros + 1) k rest
    else if p = [false, true] then scanButtonPairs zeros btn rest
    else .error .btn

/-- `SwitchButton` on the 10-bit field `b<10..19>` (R201): exactly one pair is "00". -/
def switchButton (f : List Bool) : Except Reject Button :=
  match scanButtonPairs 0 .a (buttonPairs f) with
  | .error r => .error r
  | .ok (zeros, btn) => if zeros = 1 then .ok btn else .error .btn

/-- `SwitchPower` on the 4-bit field `b<20..23>` (R202). -/
def switchPower (f : List Bool) : Except Reject Bool :=
  if f = [false, false, false, true] then .ok true
  else if f = [false, true, false, false] then .ok false
  else .error .pwr

/-- `SwitchFields(b)` (R203). -/
def switchFields (c : Config) (b : List Bool) : Except Reject Event := do
  let ch ← switchChannels c b
  let btn ← switchButton (bitSlice b 10 19)
  let pwr ← switchPower (bitSlice b 20 23)
  pure (.switchCommand ch btn pwr)

/-! ### Thermometer layout -/

/-- `ThermId` on the 8-bit field `b<0..7>` (R204): "11111111" is the reserved marker. -/
def thermId (f : List Bool) : Except Reject (BitVec 8) :=
  if f = List.replicate 8 true then .error .idff else .ok (BitVec.ofNat 8 (bitsValue f))

/-- The sign, `b<8>` (R205). -/
def thermSign (b : List Bool) : Bool :=
  bitAt b 8

/-- The integer magnitude, `b<9..15>` (R205). -/
def thermMag (b : List Bool) : BitVec 7 :=
  BitVec.ofNat 7 (bitsValue (bitSlice b 9 15))

/-- `ThermBattery` on the 4-bit field `b<16..19>`: low unless "0000" (R206). -/
def thermBattery (f : List Bool) : Bool :=
  decide (f ≠ List.replicate 4 false)

/-- The tenths digit, `b<20..23>`, 0 to 15 (R207). -/
def thermTenths (b : List Bool) : BitVec 4 :=
  BitVec.ofNat 4 (bitsValue (bitSlice b 20 23))

/-- `ThermValue`: the temperature in tenths of a degree, two's complement (R208); sign 1 is negative. -/
def thermValue (sign : Bool) (mag : BitVec 7) (tenths : BitVec 4) : BitVec 16 :=
  let v : Int := mag.toNat * 10 + tenths.toNat
  BitVec.ofInt 16 (if sign then -v else v)

/-- `ThermFields(b)` (R209). -/
def thermFields (b : List Bool) : Except Reject Event := do
  let id ← thermId (bitSlice b 0 7)
  pure (.thermometerReading id (thermSign b) (thermMag b) (thermTenths b) (thermBattery (bitSlice b 16 19)))

/-- `Fields(layout, b)`, step 4 of an attempt (R175), on the 24 bits its layout reads (R86, R90). -/
def layoutFields (c : Config) (layout : Layout) (b : List Bool) : Except Reject Event :=
  match layout with
  | .switch => switchFields c (layoutBits b)
  | .therm => thermFields (layoutBits b)

end Sys2Proof.Machine
end

