-- ==== Sys2Proof/Machine/Matcher.lean ====
section
/-!
DEFINITION. The pulse-duration matcher and its tolerance windows (R120 to R129), and the legality of a configuration
(R42). Pure functions of their operands and the configuration; arithmetic on naturals (R9).
-/

namespace Sys2Proof.Machine

/-- The long-pulse detector (R120). -/
def isLong (c : Config) (d : Dur) : Bool :=
  decide (c.longMinUs < d.toNat)

/-- The absolute difference, without wrap (R121). -/
def absDiff (a b : Dur) : Nat :=
  if b.toNat ≤ a.toNat then a.toNat - b.toNat else b.toNat - a.toNat

/-- The repeat-tolerance window, bound inclusive (R122). -/
def repeatMatch (c : Config) (d s : Dur) : Bool :=
  decide (absDiff d s ≤ c.repeatTolUs)

/-- The frame-length test (R123). -/
def lenKnown (c : Config) (n : Nat) : Bool :=
  decide (n ∈ c.frameLengths)

/-- The sync delay, truncating division (R124). -/
def delayOf (desc : Descriptor) (s : Dur) : Nat :=
  s.toNat / desc.syncDivisor

/-- The sync window, both ends inclusive (R125). -/
def syncInRange (desc : Descriptor) (delay : Nat) : Bool :=
  decide (desc.syncMin ≤ delay) && decide (delay ≤ desc.syncMax)

/-- Short or long half-pulse (R126). -/
inductive HalfClass where
  | short
  | long
  deriving DecidableEq, Repr

/-- The short/long threshold: a half at the threshold is long (R126). -/
def halfClass (desc : Descriptor) (d : Dur) : HalfClass :=
  if d.toNat < desc.threshUs then .short else .long

/-- What a half-pulse pair spells (R127). -/
inductive PairSymbol where
  | bit0
  | bit1
  | bad
  deriving DecidableEq, Repr

/-- The bit a half-pulse pair spells (R127, R85). -/
def pairSymbol (desc : Descriptor) (a c : Dur) : PairSymbol :=
  match halfClass desc a, halfClass desc c with
  | .short, .long => .bit0
  | .long, .short => .bit1
  | .short, .short => .bad
  | .long, .long => .bad

/-- The least sync pulse a descriptor accepts (R128). -/
def syncPulseMin (desc : Descriptor) : Nat :=
  desc.syncMin * desc.syncDivisor

/-- The greatest sync pulse a descriptor accepts (R128). -/
def syncPulseMax (desc : Descriptor) : Nat :=
  desc.syncMax * desc.syncDivisor + desc.syncDivisor - 1

/-- The ranges of two descriptors do not overlap (R42 item 3): neither the delay ranges nor, as unequal divisors need,
the sync-pulse windows (R128). -/
def rangesDisjoint (p q : Descriptor) : Bool :=
  (decide (p.syncMax < q.syncMin) || decide (q.syncMax < p.syncMin)) &&
  (decide (syncPulseMax p < syncPulseMin q) || decide (syncPulseMax q < syncPulseMin p))

/-- R42 items 1 and 2 for one row, and the widths R39 gives its fields. -/
def rowLegal (c : Config) (desc : Descriptor) : Bool :=
  decide (desc.expectedLength ∈ c.frameLengths) && decide (desc.expectedLength % 2 = 1) &&
  decide (1 ≤ desc.syncDivisor) && decide (desc.syncMin ≤ desc.syncMax) && decide (1 ≤ desc.threshUs) &&
  decide (desc.expectedLength < 2 ^ 7) && decide (desc.syncDivisor < 2 ^ 32) && decide (desc.syncMax < 2 ^ 32) &&
  decide (desc.threshUs < 2 ^ 32)

/-- The configuration invariants (R42). Item 5 holds of every natural; `REPEAT_TOL_US` is a 32-bit value
(93_implementation_defined.md section 1). -/
def configLegal (c : Config) : Bool :=
  rowLegal c c.switchRow && rowLegal c c.thermARow && rowLegal c c.thermBRow &&
  rangesDisjoint c.switchRow c.thermARow && rangesDisjoint c.switchRow c.thermBRow &&
  c.frameLengths.all (fun n => decide (n ≤ c.maxAccum)) && decide (c.repeatTolUs < 2 ^ 32)

end Sys2Proof.Machine
end

