-- ==== Sys2Proof/Machine/Classifier.lean ====
section
/-!
DEFINITION. The protocol classifier and bit decoder (R170 to R177): the registry loop and the steps of one attempt,
pure functions of the frame and the configuration (R178). A reject carries its reason to the loop and no further
(R242).
-/

namespace Sys2Proof.Machine

/-- Step 1 (R172). -/
def checkLength (desc : Descriptor) (frame : List Dur) : Except Reject Unit :=
  if frame.length = desc.expectedLength then .ok () else .error .len

/-- Step 2 (R173). -/
def checkSync (desc : Descriptor) (frame : List Dur) : Except Reject Nat :=
  let delay := delayOf desc (frame.getD 0 0)
  if syncInRange desc delay then .ok delay else .error .sync

/-- The half-pulse pairs of the data entries, in arrival order (R62, R84). -/
def pairSymbols (desc : Descriptor) : List Dur → List PairSymbol
  | a :: c :: rest => pairSymbol desc a c :: pairSymbols desc rest
  | _ => []

/-- The loop of step 3 (R174): the bits the symbols spell, rejecting at the first BAD one. -/
def spellBits : List PairSymbol → Except Reject (List Bool)
  | [] => .ok []
  | .bad :: _ => .error .pair
  | .bit0 :: rest => (spellBits rest).map (false :: ·)
  | .bit1 :: rest => (spellBits rest).map (true :: ·)

/-- Step 3 (R174): pairs start at entry 1. -/
def extractBits (desc : Descriptor) (frame : List Dur) : Except Reject (List Bool) :=
  spellBits (pairSymbols desc frame.tail)

/-- One protocol attempt (R170), its checks in the order of R177. -/
def tryProtocol (c : Config) (desc : Descriptor) (frame : List Dur) : Except Reject Event := do
  checkLength desc frame
  let _delay ← checkSync desc frame
  let b ← extractBits desc frame
  layoutFields c desc.layout b

/-- The registry, in order (R171): SWITCH, THERM_A, THERM_B in this hardware (R6). -/
def registry (c : Config) : List Descriptor :=
  c.registryOrder.map c.row

/-- The registry loop (R170): the first success wins; GENERIC accepts what is left (R171, R210). -/
def firstAccepted (c : Config) (frame : List Dur) : List Descriptor → Event
  | [] => .genericSignal frame
  | desc :: rest =>
    match tryProtocol c desc frame with
    | .ok ev => ev
    | .error _ => firstAccepted c frame rest

/-- `Decode(F)` (R170). -/
def decodeFrame (c : Config) (frame : List Dur) : Event :=
  firstAccepted c frame (registry c)

end Sys2Proof.Machine
end

