-- ==== Sys2Proof/Machine/Flags.lean ====
section
/-!
DEFINITION. The status the block presents. There are no flags (R38); the only status is the output record `out`, whose
fields are computed here from an event (R92, R203, R209, R210). Every field the spec leaves unspecified is a free
value (R35, R92; log 7).
-/

namespace Sys2Proof.Machine

/-- How many values a count has: 2 to the width `ceil(log2(MAX_ACCUM + 1))` (R32); 128 in this hardware. -/
def countBound (c : Config) : Nat :=
  2 ^ (c.maxAccum.log2 + 1)

/-- A record without an event: `ev_valid = 0`, every payload field free (R35). `n` is the number of the draw. -/
def openRecord (c : Config) (n : Nat) : OutRecord where
  evValid := false
  kind := Config.freeKind n
  swCh := Config.freeSwCh n
  swBtn := Config.freeSwBtn n
  swPwr := Config.freeSwPwr n
  thId := Config.freeThId n
  thSign := Config.freeThSign n
  thMag := Config.freeThMag n
  thTenths := Config.freeThTenths n
  thBattLow := Config.freeThBattLow n
  thTemp := Config.freeThTemp n
  gLen := Config.freeGLen n % countBound c
  gFrame := (List.range c.maxAccum).map (Config.freeGFrame n)

/-- The record of an event (R92): the fields of its kind, every other field free. -/
def eventRecord (c : Config) (n : Nat) : Event → OutRecord
  | .switchCommand channelMask button powerOn =>
    { openRecord c n with
      evValid := true, kind := .switch, swCh := channelMask, swBtn := button.index, swPwr := powerOn }
  | .thermometerReading sensorId sign mag tenths batteryLow =>
    { openRecord c n with
      evValid := true, kind := .thermo, thId := sensorId, thSign := sign, thMag := mag, thTenths := tenths,
      thBattLow := batteryLow, thTemp := thermValue sign mag tenths }
  | .genericSignal rawFrame =>
    { openRecord c n with
      evValid := true, kind := .generic, gLen := rawFrame.length,
      gFrame := (List.range c.maxAccum).map (fun i => rawFrame.getD i (Config.freeGFrame n i)) }

end Sys2Proof.Machine
end

