-- ==== Sys2Proof/Machine/Ops.lean ====
section
/-!
DEFINITION. The named operations on the state: consuming a word, clearing and presenting the output record (R140,
R149), writing and reading the frame buffers (R10), and the accept and reject of one protocol attempt (R170, R176).
The block raises no exception and has no trap entry or return (R240, R246), so no operation here takes one; the two
codes outside the specification and an illegal configuration stop the machine (`stopReason`).
-/

namespace Sys2Proof.Machine

/-- What `step` stops on before it consumes a word: a state that holds `st = 3` (R31) or shows event kind 3 (R93) is
faulted, and a configuration that breaks R42 is refused (R7). -/
def stopReason (s : State) : Option (Host.Outcome State Fault Refusal) :=
  match s.st with
  | .code3 => some (.fault .framingStateThree)
  | .idle | .accum | .repeatPending =>
    if configLegal s.cfg = false then some (.refused .illegalConfiguration)
    else if s.out.evValid = true ∧ s.out.kind = .reserved then some (.fault .reservedEventKind)
    else none

/-- The next word and the state without it. DESIGN CHOICE (log 2): where the host sends nothing, the block consumes
the NOP word with `DUR = 0`. -/
def fetchWord (s : State) : InputWord × State :=
  match s.input with
  | [] => (.port 0, s)
  | w :: rest => (w, { s with input := rest })

/-- The operand as the port takes it: `DUR[31:0]` (R81, R83) at the width `DUR_W` (R6), which in this hardware is the
whole field (log 17). -/
def durOperand (c : Config) (d : Dur) : Dur :=
  BitVec.ofNat 32 (d.toNat % 2 ^ c.durW)

/-- The instruction with its duration as the port takes it. -/
def portOperand (c : Config) (i : Instr) : Instr :=
  match i with
  | .reset vld dur => .reset vld (durOperand c dur)
  | .pulse dur => .pulse (durOperand c dur)
  | .nop dur => .nop (durOperand c dur)
  | i => i

/-- What every step does first: `out.ev_valid <- 0`, the payload unspecified (R140, R35). -/
def clearEvent (s : State) : State :=
  { s with out := openRecord s.cfg s.draws, draws := s.draws + 1 }

/-- Present an event in `out` (R149). -/
def presentEvent (ev : Event) (s : State) : State :=
  { s with out := eventRecord s.cfg s.draws ev, draws := s.draws + 1 }

/-- `emit(F)`: decode the frame and present its event in the same step (R149). -/
def emitFrame (frame : List Dur) (s : State) : State :=
  presentEvent (decodeFrame s.cfg frame) s

/-- `buf[i]` (R10). -/
def bufRead (s : State) (i : Nat) : Dur :=
  s.buf.getD i 0

/-- `buf[i] <- v` (R10). -/
def bufWrite (i : Nat) (v : Dur) (s : State) : State :=
  { s with buf := s.buf.set i v }

/-- The snapshot `buf[0..cnt-1]` (R65). -/
def bufFrame (s : State) : List Dur :=
  s.buf.take s.cnt

/-- The snapshot `fbuf[0..flen-1]` (R34). -/
def firstFrame (s : State) : List Dur :=
  s.fbuf.take s.flen

/-- The frame an emission of this mode hands to the classifier (R144, R148). DESIGN CHOICE (log 22): a field-code row run
alone takes it as it stands, also where its length is none of FRAME_LENGTHS; an emission never meets that case. -/
def handedFrame (s : State) : List Dur :=
  match s.cfg.confirmMode with
  | .singleShot => bufFrame s
  | .double => firstFrame s

/-- Start an accumulation at sync pulse d: `buf[0] <- d ; cnt <- 1` (R142, R145, R146, R148). -/
def startAccum (d : Dur) (s : State) : State :=
  { bufWrite 0 d s with cnt := 1 }

/-- Append a data pulse: `buf[cnt] <- d ; cnt <- cnt + 1` (R143, R147). -/
def appendPulse (d : Dur) (s : State) : State :=
  { bufWrite s.cnt d s with cnt := s.cnt + 1 }

/-! ### The classifier's codes, one at a time (log 3)

Each field-code row is one such operation after `clearEvent`, as every step sets `out.ev_valid <- 0` first (R140).
DESIGN CHOICE (log 3): a row reads its own layout whichever descriptor's turn it is, a switch row in a thermometer's turn
and TH_FRAME in SWITCH's turn too, and its reject goes on from the turn being tried.
DESIGN CHOICE (log 20): a turn, however it began, makes no length or sync check (R172, R173) of the handed frame.
DESIGN CHOICE (log 21): the locals `ch` to `tenths` outlast an attempt, and a rejected whole string leaves them as they
were. -/

/-- The descriptor being tried; none once it is GENERIC's turn (R171). -/
def currentDesc (s : State) : Option Descriptor :=
  (registry s.cfg)[s.att.turn]?

/-- `accept(ev)`: the event is presented and no later descriptor is tried (R176). The next classification begins at
the first descriptor (R170). DESIGN CHOICE: it makes no length or sync check (log 20), and the locals but for `turn` and
`bits` are kept (log 21). -/
def acceptEvent (ev : Event) (s : State) : State :=
  { presentEvent ev s with att := { s.att with turn := 0, bits := [] } }

/-- `reject(r)`: the next descriptor is tried, or, after the last one, the frame passes through as a GenericSignal
(R170, R94). DESIGN CHOICE: the next turn begins after the length and sync checks of R172 and R173, which a row run alone
does not make (log 20), and the locals but for `turn` and `bits` are kept (log 21). -/
def rejectAttempt (s : State) : State :=
  if s.att.turn + 1 < s.cfg.registryOrder.length then
    { s with att := { s.att with turn := s.att.turn + 1, bits := [] } }
  else acceptEvent (.genericSignal (handedFrame s)) s

/-- The locals the field rules assigned when they returned this event (R203, R209). -/
def noteLocals (ev : Event) (a : Attempt) : Attempt :=
  match ev with
  | .switchCommand ch btn pwr => { a with ch := ch, btn := btn, pwr := pwr }
  | .thermometerReading id sign mag tenths battLow =>
    { a with id := id, sign := sign, mag := mag, tenths := tenths, battLow := battLow }
  | .genericSignal _ => a

/-- Steps 4 and 5 of an attempt on a bit string (R175, R176). DESIGN CHOICE (log 3): SW_FRAME and TH_FRAME run it with
their own layout in any turn. DESIGN CHOICE (log 21): an accept writes all of the event's locals, a reject
none, those the rules assigned before it included. -/
def runFields (layout : Layout) (b : List Bool) (s : State) : State :=
  match layoutFields s.cfg layout b with
  | .ok ev => acceptEvent ev { s with att := noteLocals ev s.att }
  | .error _ => rejectAttempt s

/-- How many half-pulse pairs a frame of a descriptor holds, N = (L - 1) / 2 (R174). -/
def pairCount (desc : Descriptor) : Nat :=
  (desc.expectedLength - 1) / 2

/-- One bit read by step 3 (R174): it becomes the next bit of `b`, and after the last pair the fields are extracted
(R175). In GENERIC's turn there is no bit test, and the frame passes through (R171). DESIGN CHOICE (log 20): a row run
alone makes no length or sync check of the descriptor tried (R172, R173), and reads its symbol from its own code, not
from the handed frame. -/
def readBit (v : Bool) (s : State) : State :=
  match currentDesc s with
  | none => rejectAttempt s
  | some desc =>
    if (s.att.bits ++ [v]).length < pairCount desc then { s with att := { s.att with bits := s.att.bits ++ [v] } }
    else runFields desc.layout (s.att.bits ++ [v]) s

/-- One half-pulse symbol read by step 3 (R174): a bad one rejects. -/
def readSymbol (sym : PairSymbol) (s : State) : State :=
  match sym with
  | .bit0 => readBit false s
  | .bit1 => readBit true s
  | .bad => rejectAttempt s

/-- `sw_ch` with channel j set to a state (R200). -/
def setChannel (ch : BitVec 5) (j : Fin 5) (on : Bool) : BitVec 5 :=
  let bit (k : Fin 5) : Bool := if k = j then on else ch.getLsbD k
  packChannels (bit 0) (bit 1) (bit 2) (bit 3) (bit 4)

/-- One channel pair read (R200): `ch[j]` is written, or the attempt is rejected. DESIGN CHOICE (log 3): in any turn. -/
def readChannel (j : Fin 5) (p : List Bool) (s : State) : State :=
  match channelState s.cfg p with
  | .ok on => { s with att := { s.att with ch := setChannel s.att.ch j on } }
  | .error _ => rejectAttempt s

/-- The button field read (R201). DESIGN CHOICE (log 3): in any turn. -/
def readButton (f : List Bool) (s : State) : State :=
  match switchButton f with
  | .ok btn => { s with att := { s.att with btn := btn } }
  | .error _ => rejectAttempt s

/-- The power field read (R202). DESIGN CHOICE (log 3): in any turn. -/
def readPower (f : List Bool) (s : State) : State :=
  match switchPower f with
  | .ok pwr => { s with att := { s.att with pwr := pwr } }
  | .error _ => rejectAttempt s

/-- The battery field read (R206); nothing rejects. DESIGN CHOICE (log 3): in any turn. -/
def readBattery (f : List Bool) (s : State) : State :=
  { s with att := { s.att with battLow := thermBattery f } }

end Sys2Proof.Machine
end

