-- ==== Sys2Proof/Machine/EventKinds.lean ====
section
/-!
DEFINITION. The event kind rows (R92, R93): the classifier's locals, or the handed frame, presented as an event.
-/

namespace Sys2Proof.Machine

/-- EV_SWITCH: SwitchCommand from `ch`, `btn` and `pwr` (R203). -/
def execEvSwitch (s : State) : Host.Outcome State Fault Refusal :=
  .next (acceptEvent (.switchCommand s.att.ch s.att.btn s.att.pwr) (clearEvent s))

/-- EV_THERMO: ThermometerReading from the thermometer locals (R209). -/
def execEvThermo (s : State) : Host.Outcome State Fault Refusal :=
  .next (acceptEvent (.thermometerReading s.att.id s.att.sign s.att.mag s.att.tenths s.att.battLow) (clearEvent s))

/-- EV_GENERIC: GenericSignal of the frame handed to the classifier (R210). DESIGN CHOICE (log 22): of whatever length that
frame has. -/
def execEvGeneric (s : State) : Host.Outcome State Fault Refusal :=
  .next (acceptEvent (.genericSignal (handedFrame s)) (clearEvent s))

/-- EV_RESERVED: kind 3 is never produced and is a fault if seen (R93). -/
def execEvReserved (_s : State) : Host.Outcome State Fault Refusal :=
  .fault .reservedEventKind

end Sys2Proof.Machine
end

