-- ==== Sys2Proof/Machine/FrameSync.lean ====
section
/-!
DEFINITION. The frame synchronizer's operations (R140 to R151): PULSE with its seven cases, RESET and NOP. Each case
reads the state before the step; `clearEvent` (R140) touches only `out` and the draw counter.
-/

namespace Sys2Proof.Machine

/-- IdlePulse(d) (R142): a data pulse in IDLE is ignored. -/
def idlePulse (d : Dur) (s : State) : State :=
  if isLong s.cfg d then { startAccum d s with st := .accum } else s

/-- AccumData(d) (R143): append, or discard everything at MAX_ACCUM. -/
def accumData (d : Dur) (s : State) : State :=
  if s.cnt < s.cfg.maxAccum then appendPulse d s else { s with st := .idle, cnt := 0 }

/-- DoubleFirst(d) (R145): hold the first frame, start its repeat. -/
def doubleFirst (d : Dur) (s : State) : State :=
  { startAccum d s with
    fbuf := bufFrame s ++ s.fbuf.drop s.cnt, flen := s.cnt, st := .repeatPending }

/-- Restart(d) (R146). -/
def restartAccum (d : Dur) (s : State) : State :=
  startAccum d s

/-- The qualification test of a terminating pulse (R144). -/
def qualifies (d : Dur) (s : State) : Bool :=
  lenKnown s.cfg s.cnt && repeatMatch s.cfg d (bufRead s 0)

/-- AccumLong(d) (R144, R145, R146). -/
def accumLong (d : Dur) (s : State) : State :=
  if qualifies d s then
    match s.cfg.confirmMode with
    | .singleShot => { emitFrame (bufFrame s) s with st := .idle, cnt := 0 }
    | .double => doubleFirst d s
  else restartAccum d s

/-- RepData(d) (R147). -/
def repData (d : Dur) (s : State) : State :=
  if s.cnt < s.cfg.maxAccum then appendPulse d s else { s with st := .idle, cnt := 0, flen := 0 }

/-- RepLong(d) (R148). -/
def repLong (d : Dur) (s : State) : State :=
  if s.cnt = s.flen ∧ repeatMatch s.cfg d (bufRead s 0) = true then
    { emitFrame (firstFrame s) s with st := .idle, cnt := 0, flen := 0 }
  else { startAccum d s with flen := 0, st := .accum }

/-- PULSE(d) (R141). -/
def execPulse (d : Dur) (s : State) : Host.Outcome State Fault Refusal :=
  match s.st with
  | .idle => .next (idlePulse d (clearEvent s))
  | .accum => .next (if isLong s.cfg d then accumLong d (clearEvent s) else accumData d (clearEvent s))
  | .repeatPending => .next (if isLong s.cfg d then repLong d (clearEvent s) else repData d (clearEvent s))
  | .code3 => .fault .framingStateThree

/-- RESET (R150); `VLD` and `DUR` are ignored (R82, R244). Buffers and constants keep their values. -/
def execReset (_vld : Bool) (_dur : Dur) (s : State) : Host.Outcome State Fault Refusal :=
  .next { clearEvent s with
    st := .idle, cnt := 0,
    flen := match s.cfg.confirmMode with
      | .singleShot => s.flen
      | .double => 0 }

/-- NOP (R151): `out.ev_valid <- 0` and nothing else; `DUR` is ignored (R82). -/
def execNop (_dur : Dur) (s : State) : Host.Outcome State Fault Refusal :=
  .next (clearEvent s)

end Sys2Proof.Machine
end

