-- ==== Sys2Proof/Machine/HalfPair.lean ====
section
/-!
DEFINITION. The half-pair symbol rows (R85, R127, R174): what step 3 of an attempt does with one symbol.
-/

namespace Sys2Proof.Machine

/-- HP_BIT0: (S, L) spells bit 0 (R85). -/
def execHpBit0 (s : State) : Host.Outcome State Fault Refusal :=
  .next (readSymbol .bit0 (clearEvent s))

/-- HP_BIT1: (L, S) spells bit 1 (R85). -/
def execHpBit1 (s : State) : Host.Outcome State Fault Refusal :=
  .next (readSymbol .bit1 (clearEvent s))

/-- HP_ILLEGAL_SS: the protocol attempt is rejected (R85, R94). -/
def execHpIllegalSS (s : State) : Host.Outcome State Fault Refusal :=
  .next (readSymbol .bad (clearEvent s))

/-- HP_ILLEGAL_LL: the protocol attempt is rejected (R85, R94). -/
def execHpIllegalLL (s : State) : Host.Outcome State Fault Refusal :=
  .next (readSymbol .bad (clearEvent s))

end Sys2Proof.Machine
end

