-- ==== Sys2Proof/Machine/SwitchCodes.lean ====
section
/-!
DEFINITION. The switch rows (R86 to R89, R200 to R203): each reads its code with the same function a whole frame is
read with.
-/

namespace Sys2Proof.Machine

/-- SW_FRAME: `SwitchFields` on the 24-bit string (R203). -/
def execSwFrame (chan btn : BitVec 10) (pwr : BitVec 4) (s : State) : Host.Outcome State Fault Refusal :=
  .next (runFields .switch (bitsOf (encodeSwitchFrame chan btn pwr)) (clearEvent s))

/-- SW_CH_ON: pair "00" (R87, R200); on at ON_IS_00, off at ON_IS_01. -/
def execSwChOn (j : Fin 5) (s : State) : Host.Outcome State Fault Refusal :=
  .next (readChannel j [false, false] (clearEvent s))

/-- SW_CH_OFF: pair "01" (R87, R200); off at ON_IS_00, on at ON_IS_01. -/
def execSwChOff (j : Fin 5) (s : State) : Host.Outcome State Fault Refusal :=
  .next (readChannel j [false, true] (clearEvent s))

/-- SW_CH_ILLEGAL_10 (R87, R200): reject. -/
def execSwChIllegal10 (j : Fin 5) (s : State) : Host.Outcome State Fault Refusal :=
  .next (readChannel j [true, false] (clearEvent s))

/-- SW_CH_ILLEGAL_11 (R87, R200): reject. -/
def execSwChIllegal11 (j : Fin 5) (s : State) : Host.Outcome State Fault Refusal :=
  .next (readChannel j [true, true] (clearEvent s))

/-- SW_BTN_A (R88, R201). -/
def execSwBtnA (s : State) : Host.Outcome State Fault Refusal :=
  .next (readButton (bitsOf 0b0001010101#10) (clearEvent s))

/-- SW_BTN_B (R88, R201). -/
def execSwBtnB (s : State) : Host.Outcome State Fault Refusal :=
  .next (readButton (bitsOf 0b0100010101#10) (clearEvent s))

/-- SW_BTN_C (R88, R201). -/
def execSwBtnC (s : State) : Host.Outcome State Fault Refusal :=
  .next (readButton (bitsOf 0b0101000101#10) (clearEvent s))

/-- SW_BTN_D (R88, R201). -/
def execSwBtnD (s : State) : Host.Outcome State Fault Refusal :=
  .next (readButton (bitsOf 0b0101010001#10) (clearEvent s))

/-- SW_BTN_E (R88, R201). -/
def execSwBtnE (s : State) : Host.Outcome State Fault Refusal :=
  .next (readButton (bitsOf 0b0101010100#10) (clearEvent s))

/-- SW_BTN_ILLEGAL (R88, R201): reject. -/
def execSwBtnIllegal (code : BitVec 10) (s : State) : Host.Outcome State Fault Refusal :=
  .next (readButton (bitsOf code) (clearEvent s))

/-- SW_PWR_ON (R89, R202). -/
def execSwPwrOn (s : State) : Host.Outcome State Fault Refusal :=
  .next (readPower (bitsOf 0b0001#4) (clearEvent s))

/-- SW_PWR_OFF (R89, R202). -/
def execSwPwrOff (s : State) : Host.Outcome State Fault Refusal :=
  .next (readPower (bitsOf 0b0100#4) (clearEvent s))

/-- SW_PWR_ILLEGAL (R89, R202): reject. -/
def execSwPwrIllegal (code : BitVec 4) (s : State) : Host.Outcome State Fault Refusal :=
  .next (readPower (bitsOf code) (clearEvent s))

end Sys2Proof.Machine
end

