-- ==== Sys2Proof/Machine/ThermoCodes.lean ====
section
/-!
DEFINITION. The thermometer rows (R90, R91, R204 to R209).
-/

namespace Sys2Proof.Machine

/-- TH_FRAME: `ThermFields` on the 24-bit string (R209). -/
def execThFrame (id : BitVec 8) (sign : Bool) (mag : BitVec 7) (batt tenths : BitVec 4) (s : State) :
    Host.Outcome State Fault Refusal :=
  .next (runFields .therm (bitsOf (encodeThermoFrame id sign mag batt tenths)) (clearEvent s))

/-- TH_ID_RESERVED: the same string with ID "11111111", which `ThermFields` rejects (R204). -/
def execThIdReserved (sign : Bool) (mag : BitVec 7) (batt tenths : BitVec 4) (s : State) :
    Host.Outcome State Fault Refusal :=
  .next (runFields .therm (bitsOf (encodeThermoFrame 0xFF sign mag batt tenths)) (clearEvent s))

/-- TH_BATT_OK (R206). -/
def execThBattOk (s : State) : Host.Outcome State Fault Refusal :=
  .next (readBattery (bitsOf 0b0000#4) (clearEvent s))

/-- TH_BATT_LOW (R206). -/
def execThBattLow (code : BitVec 4) (s : State) : Host.Outcome State Fault Refusal :=
  .next (readBattery (bitsOf code) (clearEvent s))

end Sys2Proof.Machine
end

