-- ==== Sys2Proof/Machine/Dispatch.lean ====
section
/-!
DEFINITION. The dispatch: one arm per row of the opcode table, each one call of its meaning.
-/

namespace Sys2Proof.Machine

def exec (i : Instr) (s : State) : Host.Outcome State Fault Refusal :=
  match i with
  -- the port operations (R82)
  | .reset vld dur => Sys2Proof.Machine.execReset vld dur s
  | .pulse dur => Sys2Proof.Machine.execPulse dur s
  | .nop dur => Sys2Proof.Machine.execNop dur s
  -- half-pair symbols (R85)
  | .hpBit0 => Sys2Proof.Machine.execHpBit0 s
  | .hpBit1 => Sys2Proof.Machine.execHpBit1 s
  | .hpIllegalSS => Sys2Proof.Machine.execHpIllegalSS s
  | .hpIllegalLL => Sys2Proof.Machine.execHpIllegalLL s
  -- the switch layout (R86 to R89)
  | .swFrame chan btn pwr => Sys2Proof.Machine.execSwFrame chan btn pwr s
  | .swChOn j => Sys2Proof.Machine.execSwChOn j s
  | .swChOff j => Sys2Proof.Machine.execSwChOff j s
  | .swChIllegal10 j => Sys2Proof.Machine.execSwChIllegal10 j s
  | .swChIllegal11 j => Sys2Proof.Machine.execSwChIllegal11 j s
  | .swBtnA => Sys2Proof.Machine.execSwBtnA s
  | .swBtnB => Sys2Proof.Machine.execSwBtnB s
  | .swBtnC => Sys2Proof.Machine.execSwBtnC s
  | .swBtnD => Sys2Proof.Machine.execSwBtnD s
  | .swBtnE => Sys2Proof.Machine.execSwBtnE s
  | .swBtnIllegal code => Sys2Proof.Machine.execSwBtnIllegal code s
  | .swPwrOn => Sys2Proof.Machine.execSwPwrOn s
  | .swPwrOff => Sys2Proof.Machine.execSwPwrOff s
  | .swPwrIllegal code => Sys2Proof.Machine.execSwPwrIllegal code s
  -- the thermometer layout (R90, R91)
  | .thFrame id sign mag batt tenths => Sys2Proof.Machine.execThFrame id sign mag batt tenths s
  | .thIdReserved sign mag batt tenths => Sys2Proof.Machine.execThIdReserved sign mag batt tenths s
  | .thBattOk => Sys2Proof.Machine.execThBattOk s
  | .thBattLow code => Sys2Proof.Machine.execThBattLow code s
  -- event kinds (R92, R93)
  | .evSwitch => Sys2Proof.Machine.execEvSwitch s
  | .evThermo => Sys2Proof.Machine.execEvThermo s
  | .evGeneric => Sys2Proof.Machine.execEvGeneric s
  | .evReserved => Sys2Proof.Machine.execEvReserved s

end Sys2Proof.Machine
end

