-- ==== Sys2Proof/Machine/Step.lean ====
section
/-!
DEFINITION. One step: one word consumed, exactly one operation performed (R140, R5).
-/

namespace Sys2Proof.Machine

/-- One step. A state outside the specification, or an illegal configuration, stops first (`stopReason`); then the
next word is consumed (`fetchWord`), decoded and executed, its duration taken at the width `DUR_W` (`portOperand`). -/
def step (s : State) : Host.Outcome State Fault Refusal :=
  match stopReason s with
  | some stop => stop
  | none => exec (portOperand s.cfg (decode (fetchWord s).1)) (fetchWord s).2

/-- The state with one instruction, given as the opcode table's bits, put first in the input queue, so that the very
next step consumes it (log 2). A pattern that is no word of the table leaves the queue as it is. -/
def State.withFetchWord (s : State) (nbits w : Nat) : State :=
  match tableWord nbits w with
  | .ok word => { s with input := word :: s.input }
  | .error _ => s

end Sys2Proof.Machine
end

