-- ==== Sys2Proof/Machine/Run.lean ====
section
/-!
DEFINITION. What is observed of the block (R11): the output records of a run, one per step.
-/

namespace Sys2Proof.Machine

/-- The output records of the steps that consume these words, one per word, or the stop of the first step that stops. -/
def outputs : List InputWord → State → Host.Outcome (List OutRecord) Fault Refusal
  | [], _ => .next []
  | w :: rest, s =>
    match step { s with input := w :: rest } with
    | .next t =>
      match outputs rest t with
      | .next outs => .next (t.out :: outs)
      | .fault r => .fault r
      | .refused r => .refused r
    | .fault r => .fault r
    | .refused r => .refused r

/-- The result of a run (R253): a finite list of port words applied to the block with these constants from reset. -/
def runResult (c : Config) (words : List PortWord) : Host.Outcome (List OutRecord) Fault Refusal :=
  outputs (words.map .port) (State.resetWith c)

/-- The emitted events among the records of a run: those with `ev_valid = 1` (R253). -/
def emitted (outs : List OutRecord) : List OutRecord :=
  outs.filter (·.evValid)

end Sys2Proof.Machine
end

