-- ==== Sys2Proof/Safety.lean ====
section
/-!
DEFINITION. The terms claims use: what a record shows, what an instruction leaves alone, what a reject does, the
invariant of the block, runs of instructions, and the observation (R11).
-/

namespace Sys2Proof.Machine

/-- The record shows this event (R92): the fields of its kind, and none of the fields the spec leaves unspecified. -/
def OutRecord.Shows (o : OutRecord) : Event → Prop
  | .switchCommand channelMask button powerOn =>
    o.evValid = true ∧ o.kind = .switch ∧ o.swCh = channelMask ∧ o.swBtn = button.index ∧ o.swPwr = powerOn
  | .thermometerReading sensorId sign mag tenths batteryLow =>
    o.evValid = true ∧ o.kind = .thermo ∧ o.thId = sensorId ∧ o.thSign = sign ∧ o.thMag = mag ∧
      o.thTenths = tenths ∧ o.thBattLow = batteryLow ∧ o.thTemp = thermValue sign mag tenths
  | .genericSignal rawFrame =>
    o.evValid = true ∧ o.kind = .generic ∧ o.gLen = rawFrame.length ∧ o.gFrame.take rawFrame.length = rawFrame

/-- The framing state and both buffers are the same: `st`, `cnt`, `buf`, `fbuf`, `flen`. -/
structure SameFraming (s t : State) : Prop where
  st : t.st = s.st
  cnt : t.cnt = s.cnt
  buf : t.buf = s.buf
  fbuf : t.fbuf = s.fbuf
  flen : t.flen = s.flen

/-- What no instruction writes: the configuration constants (R39) and the words not consumed yet. -/
structure SameSurroundings (s t : State) : Prop where
  cfg : t.cfg = s.cfg
  input : t.input = s.input

/-- The effect of `reject` on the machine (R170, R94): the next turn with an empty bit string, or, after the last one,
the GenericSignal of the handed frame. Nothing else of the state changes. -/
structure RejectedTo (s t : State) : Prop where
  framing : SameFraming s t
  surroundings : SameSurroundings s t
  next_attempt : s.att.turn + 1 < s.cfg.registryOrder.length →
    t.out.evValid = false ∧ t.att = { s.att with turn := s.att.turn + 1, bits := [] }
  fall_through : ¬ s.att.turn + 1 < s.cfg.registryOrder.length →
    t.out.Shows (.genericSignal (handedFrame s)) ∧ t.att = { s.att with turn := 0, bits := [] }

/-- A field code was read without an event: only the classifier's locals change, to `a`. -/
structure LocalsBecome (s t : State) (a : Attempt) : Prop where
  framing : SameFraming s t
  surroundings : SameSurroundings s t
  no_event : t.out.evValid = false
  locals : t.att = a

/-- The event was accepted (R176): it is shown, and the classifier, whose locals became `a`, starts over. -/
structure AcceptedTo (s t : State) (ev : Event) (a : Attempt) : Prop where
  framing : SameFraming s t
  surroundings : SameSurroundings s t
  shows_event : t.out.Shows ev
  locals : t.att = { a with turn := 0, bits := [] }

/-! ### The code tables of 30_encoding.md, as bit strings in reception order -/

/-- The channel pair codes (R87). -/
def channelBits : ChannelPolarity → Bool → List Bool
  | .onIs00, true => [false, false]
  | .onIs00, false => [false, true]
  | .onIs01, true => [false, true]
  | .onIs01, false => [false, false]

/-- The button codes (R88). -/
def buttonBits : Button → List Bool
  | .a => [false, false, false, true, false, true, false, true, false, true]
  | .b => [false, true, false, false, false, true, false, true, false, true]
  | .c => [false, true, false, true, false, false, false, true, false, true]
  | .d => [false, true, false, true, false, true, false, false, false, true]
  | .e => [false, true, false, true, false, true, false, true, false, false]

/-- The power codes (R89). -/
def powerBits : Bool → List Bool
  | true => [false, false, false, true]
  | false => [false, true, false, false]

/-- The five channel pairs of a mask, channel 0 first (R86). -/
def channelString (p : ChannelPolarity) (channelMask : BitVec 5) : List Bool :=
  channelBits p (channelMask.getLsbD 0) ++ channelBits p (channelMask.getLsbD 1) ++
    channelBits p (channelMask.getLsbD 2) ++ channelBits p (channelMask.getLsbD 3) ++
    channelBits p (channelMask.getLsbD 4)

/-- The 24-bit switch string of a command (R86, R213). -/
def switchString (p : ChannelPolarity) (channelMask : BitVec 5) (button : Button) (powerOn : Bool) : List Bool :=
  channelString p channelMask ++ buttonBits button ++ powerBits powerOn

/-- The 24-bit thermometer string of five fields, each first bit most significant (R90). -/
def thermoString (id : BitVec 8) (sign : Bool) (mag : BitVec 7) (batt tenths : BitVec 4) : List Bool :=
  bitsOf id ++ [sign] ++ bitsOf mag ++ bitsOf batt ++ bitsOf tenths

/-- Pair k of the frame's data entries spells bit k of `b` against the descriptor's threshold, for every bit of `b`:
long then short for 1, short then long for 0 (R84, R85). -/
def Spells (desc : Descriptor) (frame : List Dur) (b : List Bool) : Prop :=
  ∀ k, k < b.length →
    if b.getD k false = true then
      desc.threshUs ≤ (frame.getD (1 + 2 * k) 0).toNat ∧ (frame.getD (2 + 2 * k) 0).toNat < desc.threshUs
    else
      (frame.getD (1 + 2 * k) 0).toNat < desc.threshUs ∧ desc.threshUs ≤ (frame.getD (2 + 2 * k) 0).toNat

/-- The row of a half-pulse symbol (R85); either illegal row stands for a bad one. -/
def symbolRow : PairSymbol → Instr
  | .bit0 => .hpBit0
  | .bit1 => .hpBit1
  | .bad => .hpIllegalSS

/-- The row of a channel's state under a polarity (R87). -/
def channelRow (p : ChannelPolarity) (j : Fin 5) (on : Bool) : Instr :=
  if channelBits p on = [false, false] then .swChOn j else .swChOff j

/-- The row of a button (R88). -/
def buttonRow : Button → Instr
  | .a => .swBtnA
  | .b => .swBtnB
  | .c => .swBtnC
  | .d => .swBtnD
  | .e => .swBtnE

/-- The row of a power state (R89). -/
def powerRow : Bool → Instr
  | true => .swPwrOn
  | false => .swPwrOff

/-- An accumulation is in progress. -/
abbrev State.Busy (s : State) : Prop := s.st = .accum ∨ s.st = .repeatPending

/-- The invariant of the block (R44), with the sizes of R33, R34 and R92, the legality of R42, the mode of R31, the
data pulses of R153, the tolerance of R156, and the values R92 says are never produced. -/
structure Inv (s : State) : Prop where
  config_legal : configLegal s.cfg = true
  st_legal : s.st ≠ .code3
  idle_count : s.st = .idle → s.cnt = 0
  busy_count : s.Busy → 1 ≤ s.cnt ∧ s.cnt ≤ s.cfg.maxAccum
  busy_sync : s.Busy → isLong s.cfg (bufRead s 0) = true
  busy_data : s.Busy → ∀ i, 1 ≤ i → i < s.cnt → isLong s.cfg (bufRead s i) = false
  pending_mode : s.st = .repeatPending → s.cfg.confirmMode = .double
  pending_length : s.st = .repeatPending → lenKnown s.cfg s.flen = true
  pending_sync : s.st = .repeatPending → isLong s.cfg (s.fbuf.getD 0 0) = true
  pending_data : s.st = .repeatPending → ∀ i, 1 ≤ i → i < s.flen → isLong s.cfg (s.fbuf.getD i 0) = false
  pending_tolerance : s.st = .repeatPending → repeatMatch s.cfg (bufRead s 0) (s.fbuf.getD 0 0) = true
  flen_zero : s.st ≠ .repeatPending → s.flen = 0
  buf_size : s.buf.length = s.cfg.maxAccum
  fbuf_size : s.fbuf.length = s.cfg.maxAccum
  frame_size : s.out.gFrame.length = s.cfg.maxAccum
  frame_length : s.out.gLen < countBound s.cfg
  kind_legal : s.out.evValid = true → s.out.kind ≠ .reserved
  button_legal : s.out.evValid = true → s.out.kind = .switch → s.out.swBtn.toNat ≤ 4
  id_legal : s.out.evValid = true → s.out.kind = .thermo → s.out.thId ≠ 0xFF
  local_id_legal : s.att.id ≠ 0xFF

/-- The instruction is a port operation (R82). -/
def isPortOp : Instr → Bool
  | .reset _ _ | .pulse _ | .nop _ => true
  | _ => false

/-- The word is a port word (R81). -/
def isPortWord : InputWord → Bool
  | .port _ => true
  | _ => false

/-- Instructions executed one after the other, stopping at the first stop. -/
def runInstrs : List Instr → State → Host.Outcome State Fault Refusal
  | [], s => .next s
  | i :: rest, s =>
    match exec i s with
    | .next t => runInstrs rest t
    | .fault r => .fault r
    | .refused r => .refused r

/-- The same state but for the classifier's locals (log 3). -/
def State.withAttempt (s : State) (a : Attempt) : State :=
  { s with att := a }

/-- The same answer but for the classifier's locals (log 3). -/
def outcomeWithAttempt (a : Attempt) :
    Host.Outcome State Fault Refusal → Host.Outcome State Fault Refusal
  | .next t => .next (t.withAttempt a)
  | .fault r => .fault r
  | .refused r => .refused r

/-- Two records nobody can tell apart (R11, R35): `ev_valid` and every shown event are the same. -/
structure SameShown (o p : OutRecord) : Prop where
  valid : o.evValid = p.evValid
  event : ∀ ev, o.Shows ev ↔ p.Shows ev

/-- Two runs nobody can tell apart (R11): as many records, pair by pair the same. -/
def SameOutputs (os ps : List OutRecord) : Prop :=
  List.Forall₂ SameShown os ps

/-- Two states that differ at most in what no rule reads (R33, R34, R43): stale buffer entries, the record of an
earlier step, the classifier's locals, the free values drawn so far, and the words not consumed yet. -/
structure SameLive (s t : State) : Prop where
  st : t.st = s.st
  cnt : t.cnt = s.cnt
  flen : t.flen = s.flen
  cfg : t.cfg = s.cfg
  buf_size : t.buf.length = s.buf.length
  fbuf_size : t.fbuf.length = s.fbuf.length
  buf_live : t.buf.take t.cnt = s.buf.take s.cnt
  fbuf_live : t.fbuf.take t.flen = s.fbuf.take s.flen

end Sys2Proof.Machine
end

