-- ==== Sys2Proof/Certificates/Slice0/Obligations.lean ====
section
/-!
DEFINITION. The statements for the provers: what the numbered rules of spec/ say the block and its operations do.
Each docstring names the rule. The configuration is arbitrary unless a statement fixes it (R7).
-/

open Sys2Proof Sys2Proof.Machine

/-! ### Words and instructions -/

/-- Decoding the word of a well-formed instruction gives it back: no operand bit is dropped. -/
def Obligations.DecodeInvertsEncode : Prop :=
  ∀ i : Instr, WellFormed i → decode (encode i) = i

/-- Every word decodes to a well-formed instruction, whose word it is: each word has one meaning (R94: no code is
without a row). -/
def Obligations.EncodeInvertsDecode : Prop :=
  ∀ w : InputWord, WellFormed (decode w) ∧ encode (decode w) = w

/-- Words written out from the tables of 30_encoding.md and the programs of 95_test_vectors.md. -/
def Obligations.WrittenOutWordsDecode : Prop :=
  decode (.port 0x200000000) = .reset false 0 ∧
  decode (.port 0x300002A94) = .reset true 10900 ∧
  decode (.port 0x100002A62) = .pulse 10850 ∧
  decode (.port 0x000000000) = .nop 0 ∧
  decode (.halfPair 0b01) = .hpBit0 ∧
  decode (.channel 3 0b10) = .swChIllegal10 3 ∧
  decode (.button 0b0100010101) = .swBtnB ∧
  decode (.power 0b0100) = .swPwrOff ∧
  decode (.switchFrame 0b000101010101000101010001) = .swFrame 0b0001010101 0b0100010101 0b0001 ∧
  decode (.thermoFrame 0b010110101001011100000111) = .thFrame 0x5A true 23 0 7 ∧
  decode (.thermoFrame 0b111111110001010000000000) = .thIdReserved false 20 0 0 ∧
  decode (.battery 0b1111) = .thBattLow 0b1111 ∧
  decode (.eventKind 0b10) = .evGeneric

/-- R82: decoding is total over all 34-bit words; `RST` overrides `VLD`; RESET and NOP ignore `DUR`; and within PULSE
the value of `DUR` selects the long or the data case, in every framing state. -/
def Obligations.PortWordsDecodeByRstAndVld : Prop :=
  (∀ rst vld dur, decode (.port (encodePort rst vld dur)) =
    if rst then .reset vld dur else if vld then .pulse dur else .nop dur) ∧
  (∀ w : PortWord, ∃ rst vld dur, w = encodePort rst vld dur ∧
    rst = w.getLsbD 33 ∧ vld = w.getLsbD 32 ∧ dur = w.extractLsb' 0 32) ∧
  (∀ (s : State) (vld : Bool) (dur : Dur),
    exec (decode (.port (encodePort true vld dur))) s = exec (decode (.port (encodePort true false 0))) s) ∧
  (∀ (s : State) (dur : Dur),
    exec (decode (.port (encodePort false false dur))) s = exec (decode (.port (encodePort false false 0))) s) ∧
  (∀ (s : State) (dur : Dur),
    (s.st = .idle → exec (decode (.port (encodePort false true dur))) s =
      .next (if s.cfg.longMinUs < dur.toNat then { startAccum dur (clearEvent s) with st := .accum }
        else clearEvent s)) ∧
    (s.st = .accum → exec (decode (.port (encodePort false true dur))) s =
      .next (if s.cfg.longMinUs < dur.toNat then accumLong dur (clearEvent s) else accumData dur (clearEvent s))) ∧
    (s.st = .repeatPending → exec (decode (.port (encodePort false true dur))) s =
      .next (if s.cfg.longMinUs < dur.toNat then repLong dur (clearEvent s) else repData dur (clearEvent s))))

/-! ### The step -/

/-- One step consumes the word at the head of the queue and performs exactly its instruction; with nothing sent it
performs NOP (log 2). The duration is taken at the width `DUR_W` (log 17); at 32 bits or more, as in this hardware, it
is the word's own. -/
def Obligations.StepRunsDecodedInstruction : Prop :=
  ∀ s : State, configLegal s.cfg = true → s.st ≠ .code3 → ¬(s.out.evValid = true ∧ s.out.kind = .reserved) →
    (∀ i rest, WellFormed i → s.input = encode i :: rest →
      step s = exec (portOperand s.cfg i) { s with input := rest } ∧
      (32 ≤ s.cfg.durW → step s = exec i { s with input := rest })) ∧
    (s.input = [] → step s = exec (.nop 0) s)

/-- The two codes outside the specification are faults, and an illegal configuration is refused, before any word is
consumed (logs 8, 9, 10). -/
def Obligations.StepStopsOutsideSpecification : Prop :=
  ∀ s : State,
    (s.st = .code3 → step s = .fault .framingStateThree) ∧
    (s.st ≠ .code3 → configLegal s.cfg = false → step s = .refused .illegalConfiguration) ∧
    (s.st ≠ .code3 → configLegal s.cfg = true → s.out.evValid = true → s.out.kind = .reserved →
      step s = .fault .reservedEventKind)

/-- PULSE refuses a framing state of 3 (R141), and EV_RESERVED is a fault whenever it is seen (R93). -/
def Obligations.OutsideCodesFault : Prop :=
  (∀ (s : State) (d : Dur), s.st = .code3 → exec (.pulse d) s = .fault .framingStateThree) ∧
  (∀ s : State, exec .evReserved s = .fault .reservedEventKind)

/-! ### The matcher -/

/-- R121: the absolute difference of the two numbers, without wrap. -/
def Obligations.AbsDiffIsTheDistance : Prop :=
  ∀ a b : Dur,
    (absDiff a b : Int) = |(a.toNat : Int) - (b.toNat : Int)| ∧
    absDiff a b = absDiff b a ∧ absDiff a b ≤ 4294967295 ∧ absDiff a a = 0

/-- R122: the window is inclusive and symmetric around the sync pulse, and 200 microseconds in this hardware. -/
def Obligations.RepeatWindowIsInclusiveAndSymmetric : Prop :=
  ∀ (c : Config) (d s : Dur),
    (repeatMatch c d s = true ↔ s.toNat ≤ d.toNat + c.repeatTolUs ∧ d.toNat ≤ s.toNat + c.repeatTolUs) ∧
    repeatMatch c d s = repeatMatch c s d ∧
    (repeatMatch Config.hardware d s = true ↔ absDiff d s ≤ 200)

/-- R126 and R127: a half is short below the threshold (700 for SWITCH, 510 for the thermometers) and long at it or
above; the symbol is decided by the order of the halves. -/
def Obligations.PairSymbolByOrderOfHalves : Prop :=
  (∀ (desc : Descriptor) (a c : Dur),
    (halfClass desc a = .short ↔ a.toNat < desc.threshUs) ∧
    (halfClass desc a = .long ↔ desc.threshUs ≤ a.toNat) ∧
    (pairSymbol desc a c = .bit0 ↔ a.toNat < desc.threshUs ∧ desc.threshUs ≤ c.toNat) ∧
    (pairSymbol desc a c = .bit1 ↔ desc.threshUs ≤ a.toNat ∧ c.toNat < desc.threshUs) ∧
    (pairSymbol desc a c = .bad ↔ (a.toNat < desc.threshUs ↔ c.toNat < desc.threshUs))) ∧
  Config.hardware.switchRow.threshUs = 700 ∧ Config.hardware.thermARow.threshUs = 510 ∧
  Config.hardware.thermBRow.threshUs = 510

/-- R128: the sync window in sync-pulse terms, and this hardware's numbers. -/
def Obligations.SyncWindowInPulseTerms : Prop :=
  (∀ (desc : Descriptor) (s : Dur), 1 ≤ desc.syncDivisor →
    (syncInRange desc (delayOf desc s) = true ↔
      desc.syncMin * desc.syncDivisor ≤ s.toNat ∧
      s.toNat ≤ desc.syncMax * desc.syncDivisor + desc.syncDivisor - 1)) ∧
  (∀ s : Dur,
    (syncInRange Config.hardware.switchRow (delayOf Config.hardware.switchRow s) = true ↔
      9300 ≤ s.toNat ∧ s.toNat ≤ 12430) ∧
    (syncInRange Config.hardware.thermARow (delayOf Config.hardware.thermARow s) = true ↔
      7750 ≤ s.toNat ∧ s.toNat ≤ 8090) ∧
    (syncInRange Config.hardware.thermBRow (delayOf Config.hardware.thermBRow s) = true ↔
      7750 ≤ s.toNat ∧ s.toNat ≤ 8090) ∧
    (∀ n, syncInRange (Config.hardware.row n) (delayOf (Config.hardware.row n) s) = true →
      isLong Config.hardware s = true ∧ delayOf (Config.hardware.row n) s ≠ 500) ∧
    (∀ n, delayOf (Config.hardware.row n) s = 500 ↔ 15500 ≤ s.toNat ∧ s.toNat ≤ 15530))

/-! ### PULSE, RESET and NOP -/

/-- R141: PULSE dispatches on the framing state and the pulse class, and refuses state 3. -/
def Obligations.PulseDispatchesOnStateAndClass : Prop :=
  ∀ (s : State) (d : Dur),
    (s.st = .idle → exec (.pulse d) s = .next (idlePulse d (clearEvent s))) ∧
    (s.st = .accum → s.cfg.longMinUs < d.toNat → exec (.pulse d) s = .next (accumLong d (clearEvent s))) ∧
    (s.st = .accum → ¬ s.cfg.longMinUs < d.toNat → exec (.pulse d) s = .next (accumData d (clearEvent s))) ∧
    (s.st = .repeatPending → s.cfg.longMinUs < d.toNat → exec (.pulse d) s = .next (repLong d (clearEvent s))) ∧
    (s.st = .repeatPending → ¬ s.cfg.longMinUs < d.toNat → exec (.pulse d) s = .next (repData d (clearEvent s))) ∧
    (s.st = .code3 → exec (.pulse d) s = .fault .framingStateThree)

/-- R142, IdlePulse. -/
def Obligations.IdlePulseStartsOrIsIgnored : Prop :=
  ∀ (s : State) (d : Dur), s.st = .idle →
    ∃ t, exec (.pulse d) s = .next t ∧ t.out.evValid = false ∧
      t.fbuf = s.fbuf ∧ t.flen = s.flen ∧ t.att = s.att ∧ SameSurroundings s t ∧
      (if s.cfg.longMinUs < d.toNat then t.st = .accum ∧ t.cnt = 1 ∧ t.buf = s.buf.set 0 d
       else t.st = .idle ∧ t.cnt = s.cnt ∧ t.buf = s.buf)

/-- R143, AccumData: append, or discard everything at MAX_ACCUM. -/
def Obligations.AccumDataAppendsOrOverflows : Prop :=
  ∀ (s : State) (d : Dur), s.st = .accum → ¬ s.cfg.longMinUs < d.toNat →
    ∃ t, exec (.pulse d) s = .next t ∧ t.out.evValid = false ∧
      t.fbuf = s.fbuf ∧ t.flen = s.flen ∧ t.att = s.att ∧ SameSurroundings s t ∧
      (if s.cnt < s.cfg.maxAccum then t.st = .accum ∧ t.cnt = s.cnt + 1 ∧ t.buf = s.buf.set s.cnt d
       else t.st = .idle ∧ t.cnt = 0 ∧ t.buf = s.buf)

/-- R144: a qualifying long pulse emits the accumulated frame in SINGLE_SHOT mode. -/
def Obligations.QualifyingPulseEmitsFrame : Prop :=
  ∀ (s : State) (d : Dur), configLegal s.cfg = true → s.cfg.confirmMode = .singleShot →
    s.st = .accum → s.cfg.longMinUs < d.toNat →
    s.cnt ∈ s.cfg.frameLengths → absDiff d (bufRead s 0) ≤ s.cfg.repeatTolUs →
    ∃ t, exec (.pulse d) s = .next t ∧ t.out.Shows (decodeFrame s.cfg (s.buf.take s.cnt)) ∧
      t.st = .idle ∧ t.cnt = 0 ∧ t.buf = s.buf ∧ t.fbuf = s.fbuf ∧ t.flen = s.flen ∧ t.att = s.att ∧
      SameSurroundings s t

/-- R145, DoubleFirst: the first frame is held and its terminating pulse starts the repeat; entries of `fbuf` above
the frame keep their values. -/
def Obligations.DoubleModeHoldsFirstFrame : Prop :=
  ∀ (s : State) (d : Dur), s.cfg.confirmMode = .double → s.st = .accum → s.cfg.longMinUs < d.toNat →
    s.cnt ∈ s.cfg.frameLengths → absDiff d (bufRead s 0) ≤ s.cfg.repeatTolUs →
    ∃ t, exec (.pulse d) s = .next t ∧ t.out.evValid = false ∧
      t.fbuf = s.buf.take s.cnt ++ s.fbuf.drop s.cnt ∧ t.flen = s.cnt ∧
      t.buf = s.buf.set 0 d ∧ t.cnt = 1 ∧ t.st = .repeatPending ∧ t.att = s.att ∧ SameSurroundings s t

/-- R146, Restart: a long pulse that does not qualify restarts the accumulation, in either mode. -/
def Obligations.NonQualifyingPulseRestarts : Prop :=
  ∀ (s : State) (d : Dur), s.st = .accum → s.cfg.longMinUs < d.toNat →
    ¬(s.cnt ∈ s.cfg.frameLengths ∧ absDiff d (bufRead s 0) ≤ s.cfg.repeatTolUs) →
    ∃ t, exec (.pulse d) s = .next t ∧ t.out.evValid = false ∧
      t.st = .accum ∧ t.cnt = 1 ∧ t.buf = s.buf.set 0 d ∧
      t.fbuf = s.fbuf ∧ t.flen = s.flen ∧ t.att = s.att ∧ SameSurroundings s t

/-- R147, RepData. -/
def Obligations.RepeatDataAppendsOrOverflows : Prop :=
  ∀ (s : State) (d : Dur), s.st = .repeatPending → ¬ s.cfg.longMinUs < d.toNat →
    ∃ t, exec (.pulse d) s = .next t ∧ t.out.evValid = false ∧
      t.fbuf = s.fbuf ∧ t.att = s.att ∧ SameSurroundings s t ∧
      (if s.cnt < s.cfg.maxAccum then
        t.st = .repeatPending ∧ t.cnt = s.cnt + 1 ∧ t.flen = s.flen ∧ t.buf = s.buf.set s.cnt d
       else t.st = .idle ∧ t.cnt = 0 ∧ t.flen = 0 ∧ t.buf = s.buf)

/-- R148, RepLong: a repeat of the same length whose terminating pulse matches its sync emits the first frame;
anything else discards it. -/
def Obligations.RepeatConfirmsOrDiscardsFirstFrame : Prop :=
  ∀ (s : State) (d : Dur), configLegal s.cfg = true → s.st = .repeatPending → s.cfg.longMinUs < d.toNat →
    s.flen ∈ s.cfg.frameLengths →
    ∃ t, exec (.pulse d) s = .next t ∧ t.fbuf = s.fbuf ∧ t.flen = 0 ∧ t.att = s.att ∧ SameSurroundings s t ∧
      (if s.cnt = s.flen ∧ absDiff d (bufRead s 0) ≤ s.cfg.repeatTolUs then
        t.out.Shows (decodeFrame s.cfg (s.fbuf.take s.flen)) ∧ t.st = .idle ∧ t.cnt = 0 ∧ t.buf = s.buf
       else t.out.evValid = false ∧ t.st = .accum ∧ t.cnt = 1 ∧ t.buf = s.buf.set 0 d)

/-- R150, RESET, in any state; the other fields of the word change nothing. -/
def Obligations.ResetDiscardsTheAccumulation : Prop :=
  ∀ (s : State) (vld : Bool) (dur : Dur),
    (∃ t, exec (.reset vld dur) s = .next t ∧ t.st = .idle ∧ t.cnt = 0 ∧ t.out.evValid = false ∧
      t.flen = (if s.cfg.confirmMode = .double then 0 else s.flen) ∧
      t.buf = s.buf ∧ t.fbuf = s.fbuf ∧ t.att = s.att ∧ SameSurroundings s t) ∧
    exec (.reset vld dur) s = exec (.reset false 0) s

/-- R151, NOP: `out.ev_valid <- 0` and nothing else. -/
def Obligations.NopOnlyClearsTheEvent : Prop :=
  ∀ (s : State) (dur : Dur),
    (∃ t, exec (.nop dur) s = .next t ∧ t.out.evValid = false ∧ SameFraming s t ∧ t.att = s.att ∧
      SameSurroundings s t) ∧
    exec (.nop dur) s = exec (.nop 0) s

/-- The values the spec gives for reset (R45), and that RESET reaches them from any state of the invariant, as power-up
has the effect of one RESET (R270, R271). -/
def Obligations.ResetReachesThePowerUpState : Prop :=
  (State.reset.st = .idle ∧ State.reset.cnt = 0 ∧ State.reset.flen = 0 ∧ State.reset.out.evValid = false ∧
    configLegal State.reset.cfg = true) ∧
  ∀ (s : State) (vld : Bool) (dur : Dur), Inv s →
    ∃ t, exec (.reset vld dur) s = .next t ∧
      t.st = State.reset.st ∧ t.cnt = State.reset.cnt ∧ t.flen = State.reset.flen ∧
      t.out.evValid = State.reset.out.evValid ∧ t.cfg = s.cfg

/-- R40, R41, R6: this hardware's constants, which the reset state carries; and the codes of `st` (R31) and of
`out.kind` (R92). -/
def Obligations.HardwareConstants : Prop :=
  let c := State.reset.cfg
  (FramingState.code .idle = 0 ∧ FramingState.code .accum = 1 ∧ FramingState.code .repeatPending = 2 ∧
    FramingState.code .code3 = 3) ∧
  (EventKind.code .switch = 0 ∧ EventKind.code .thermo = 1 ∧ EventKind.code .generic = 2 ∧
    EventKind.code .reserved = 3) ∧
  c.durW = 32 ∧ c.registryOrder = [.switch, .thermA, .thermB] ∧
  c.longMinUs = 5000 ∧ c.repeatTolUs = 200 ∧ c.frameLengths = [49, 65] ∧ c.maxAccum = 65 ∧
  c.confirmMode = .singleShot ∧ c.channelPolarity = .onIs00 ∧
  c.row .switch = { expectedLength := 49, syncDivisor := 31, syncMin := 300, syncMax := 400, threshUs := 700,
                    layout := .switch } ∧
  c.row .thermA = { expectedLength := 49, syncDivisor := 31, syncMin := 250, syncMax := 260, threshUs := 510,
                    layout := .therm } ∧
  c.row .thermB = { expectedLength := 49, syncDivisor := 31, syncMin := 250, syncMax := 260, threshUs := 510,
                    layout := .therm }

/-! ### What an emission is -/

/-- R152: at most one event per port operation, and only at a long pulse in ACCUM (SINGLE_SHOT) or REPEAT_PENDING
(DOUBLE). -/
def Obligations.EventsOnlyAtTerminatingPulses : Prop :=
  ∀ (s t : State) (i : Instr), Inv s → isPortOp i = true → exec i s = .next t → t.out.evValid = true →
    (∃ ev, t.out.Shows ev ∧ ∀ ev', t.out.Shows ev' → ev' = ev) ∧
    ∃ d, i = .pulse d ∧ s.cfg.longMinUs < d.toNat ∧
      ((s.st = .accum ∧ s.cfg.confirmMode = .singleShot) ∨
       (s.st = .repeatPending ∧ s.cfg.confirmMode = .double))

/-- R153: every emitted frame, the buffer's in SINGLE_SHOT mode and the held one in DOUBLE, has a known length, a long
entry 0 and data pulses after it. -/
def Obligations.EmittedFramesHaveKnownLength : Prop :=
  ∀ (s t : State) (d : Dur), Inv s → exec (.pulse d) s = .next t → t.out.evValid = true →
    t.out.Shows (decodeFrame s.cfg (handedFrame s)) ∧ (handedFrame s).length ∈ s.cfg.frameLengths ∧
      s.cfg.longMinUs < ((handedFrame s).getD 0 0).toNat ∧
      ∀ k, 1 ≤ k → k < (handedFrame s).length → ¬ s.cfg.longMinUs < ((handedFrame s).getD k 0).toNat

/-- R156: the emitted frame's sync pulse and the pulse that terminated it are within the tolerance; in DOUBLE mode the
repeat has the same length and its own two pulses are within it too. -/
def Obligations.EmittedFramesAreWithinTolerance : Prop :=
  ∀ (s t : State) (d : Dur), Inv s → exec (.pulse d) s = .next t → t.out.evValid = true →
    ∃ frame : List Dur, t.out.Shows (decodeFrame s.cfg frame) ∧
      (s.cfg.confirmMode = .singleShot →
        frame = s.buf.take s.cnt ∧ absDiff d (frame.getD 0 0) ≤ s.cfg.repeatTolUs) ∧
      (s.cfg.confirmMode = .double →
        frame = s.fbuf.take s.flen ∧ s.cnt = frame.length ∧
        absDiff (bufRead s 0) (frame.getD 0 0) ≤ s.cfg.repeatTolUs ∧
        absDiff d (bufRead s 0) ≤ s.cfg.repeatTolUs)

/-- R154, Scenario 4: after two consecutive long pulses the second is the sync pulse of a new accumulation and emits
nothing; from IDLE the first emits nothing either. -/
def Obligations.TwoLongPulsesRestartFraming : Prop :=
  ∀ (s : State) (d1 d2 : Dur), s.st = .idle ∨ s.st = .accum → 1 ∉ s.cfg.frameLengths → s.buf ≠ [] →
    s.cfg.longMinUs < d1.toNat → s.cfg.longMinUs < d2.toNat →
    ∃ u t, exec (.pulse d1) s = .next u ∧ exec (.pulse d2) u = .next t ∧
      t.st = .accum ∧ t.cnt = 1 ∧ bufRead t 0 = d2 ∧ t.out.evValid = false ∧
      (s.st = .idle → u.st = .accum ∧ u.cnt = 1 ∧ u.out.evValid = false)

/-- A whole frame in SINGLE_SHOT mode: a long pulse, data pulses of a known total length and a matching long pulse,
fed from IDLE, give exactly one event, at the last pulse, and it is the decoding of the frame as it was fed
(R142 to R144, R149, R62). -/
def Obligations.WholeFrameIsAssembledAndDecoded : Prop :=
  ∀ (s : State) (sync d : Dur) (data : List Dur), configLegal s.cfg = true → s.cfg.confirmMode = .singleShot →
    s.st = .idle → s.buf.length = s.cfg.maxAccum → s.cfg.longMinUs < sync.toNat →
    (∀ x ∈ data, ¬ s.cfg.longMinUs < x.toNat) → data.length + 1 ∈ s.cfg.frameLengths →
    s.cfg.longMinUs < d.toNat → absDiff d sync ≤ s.cfg.repeatTolUs →
    (∀ n, n ≤ data.length → ∃ u, runInstrs (.pulse sync :: (data.take n).map .pulse) s = .next u ∧
      u.out.evValid = false ∧ u.st = .accum ∧ u.cnt = n + 1 ∧ bufFrame u = sync :: data.take n) ∧
    ∃ t, runInstrs (.pulse sync :: data.map .pulse ++ [.pulse d]) s = .next t ∧
      t.out.Shows (decodeFrame s.cfg (sync :: data)) ∧ t.st = .idle ∧ t.cnt = 0 ∧ t.cfg = s.cfg

/-- A held frame in DOUBLE mode: a first frame, then a repeat of equal length whose terminating pulse matches its own
sync, fed from IDLE, give exactly one event, the decoding of the FIRST frame, at the repeat's terminating pulse; every
pulse before that one emits nothing (R145, R147, R148). -/
def Obligations.ConfirmedFrameIsTheFirstOne : Prop :=
  ∀ (s : State) (sync mid d : Dur) (data rep : List Dur), configLegal s.cfg = true → s.cfg.confirmMode = .double →
    s.st = .idle → s.buf.length = s.cfg.maxAccum → s.fbuf.length = s.cfg.maxAccum →
    s.cfg.longMinUs < sync.toNat → s.cfg.longMinUs < mid.toNat → s.cfg.longMinUs < d.toNat →
    (∀ x ∈ data, ¬ s.cfg.longMinUs < x.toNat) → (∀ x ∈ rep, ¬ s.cfg.longMinUs < x.toNat) →
    data.length + 1 ∈ s.cfg.frameLengths → rep.length = data.length →
    absDiff mid sync ≤ s.cfg.repeatTolUs → absDiff d mid ≤ s.cfg.repeatTolUs →
    (∀ n, n ≤ data.length → ∃ v, runInstrs (.pulse sync :: (data.take n).map .pulse) s = .next v ∧
      v.st = .accum ∧ v.out.evValid = false) ∧
    ∃ u t, runInstrs (.pulse sync :: data.map .pulse ++ [.pulse mid]) s = .next u ∧
      u.st = .repeatPending ∧ u.out.evValid = false ∧
      (∀ n, n ≤ rep.length → ∃ v, runInstrs ((rep.take n).map .pulse) u = .next v ∧
        v.st = .repeatPending ∧ v.out.evValid = false) ∧
      runInstrs (rep.map .pulse ++ [.pulse d]) u = .next t ∧
      t.out.Shows (decodeFrame s.cfg (sync :: data)) ∧ t.st = .idle ∧ t.cnt = 0 ∧ t.flen = 0

/-- R155: of back-to-back repeats S1 D1 S2 D2 S3 D3 S4, the frames at S1 and S3 are emitted and the one at S2 is not:
the data pulses after S2 are ignored, and S3 only starts the next frame. -/
def Obligations.BackToBackRepeatsEmitAlternateFrames : Prop :=
  ∀ (s : State) (s1 s2 s3 s4 : Dur) (data1 data2 data3 : List Dur), configLegal s.cfg = true →
    s.cfg.confirmMode = .singleShot → s.st = .idle → s.cnt = 0 → s.buf.length = s.cfg.maxAccum →
    s.cfg.longMinUs < s1.toNat → s.cfg.longMinUs < s2.toNat → s.cfg.longMinUs < s3.toNat →
    s.cfg.longMinUs < s4.toNat →
    (∀ x ∈ data1 ++ data2 ++ data3, ¬ s.cfg.longMinUs < x.toNat) →
    data1.length + 1 ∈ s.cfg.frameLengths → data3.length + 1 ∈ s.cfg.frameLengths →
    absDiff s2 s1 ≤ s.cfg.repeatTolUs → absDiff s4 s3 ≤ s.cfg.repeatTolUs →
    ∃ t1 t3, runInstrs (.pulse s1 :: data1.map .pulse ++ [.pulse s2]) s = .next t1 ∧
      t1.out.Shows (decodeFrame s.cfg (s1 :: data1)) ∧
      (∀ n, 1 ≤ n → n ≤ data2.length → ∃ u, runInstrs ((data2.take n).map .pulse) t1 = .next u ∧
        u.st = .idle ∧ u.out.evValid = false) ∧
      (∃ u, runInstrs (data2.map .pulse ++ [.pulse s3]) t1 = .next u ∧
        u.st = .accum ∧ u.cnt = 1 ∧ bufRead u 0 = s3 ∧ u.out.evValid = false) ∧
      (∀ n, n ≤ data3.length → ∃ u, runInstrs (data2.map .pulse ++ (.pulse s3 :: (data3.take n).map .pulse)) t1 = .next u ∧
        u.out.evValid = false) ∧
      runInstrs (data2.map .pulse ++ (.pulse s3 :: data3.map .pulse ++ [.pulse s4])) t1 = .next t3 ∧
      t3.out.Shows (decodeFrame s.cfg (s3 :: data3)) ∧ t3.st = .idle

/-! ### The classifier and the verifier -/

/-- R170, R171: registry order, the first success wins, and GENERIC accepts what every descriptor rejects. In this
hardware the order is SWITCH, THERM_A, THERM_B. -/
def Obligations.FirstSuccessfulAttemptWins : Prop :=
  (∀ (c : Config) (frame : List Dur) (ev : Event),
    decodeFrame c frame = ev ↔
      (∃ pre n post, c.registryOrder = pre ++ n :: post ∧ tryProtocol c (c.row n) frame = .ok ev ∧
        ∀ m ∈ pre, ∃ r, tryProtocol c (c.row m) frame = .error r) ∨
      ((∀ m ∈ c.registryOrder, ∃ r, tryProtocol c (c.row m) frame = .error r) ∧ ev = .genericSignal frame)) ∧
  Config.hardware.registryOrder = [.switch, .thermA, .thermB]

/-- After R211: a frame passes a descriptor exactly if every check of the table passes, and no other check exists. For a
frame of 49 entries these are the 24 bits its pairs spell. For frames of other lengths the bits checked are the model's
choice (log 18): free values beyond a shorter frame, the first 24 bits of a longer one. -/
def Obligations.ChecksumVerifierIsTheCheckList : Prop :=
  ∀ (c : Config) (n : DescName) (frame : List Dur), configLegal c = true →
    (c.row n).layout = (if n = .switch then .switch else .therm) →
    ((∃ ev, tryProtocol c (c.row n) frame = .ok ev) ↔
      frame.length = (c.row n).expectedLength ∧
      ((c.row n).syncMin ≤ (frame.getD 0 0).toNat / (c.row n).syncDivisor ∧
        (frame.getD 0 0).toNat / (c.row n).syncDivisor ≤ (c.row n).syncMax) ∧
      ∃ b : List Bool, 2 * b.length + 1 = frame.length ∧ Spells (c.row n) frame b ∧
        (if n = .switch then
          (∀ j, j < 5 → ∃ on, bitSlice (layoutBits b) (2 * j) (2 * j + 1) = channelBits c.channelPolarity on) ∧
          (∃ x, bitSlice (layoutBits b) 10 19 = buttonBits x) ∧ (∃ p, bitSlice (layoutBits b) 20 23 = powerBits p)
         else bitSlice (layoutBits b) 0 7 ≠ [true, true, true, true, true, true, true, true]) ∧
        (49 ≤ frame.length → layoutBits b = b))

/-- R88, R201: a button field is accepted exactly if it is one of the five codes, each with "00" at its button's index
and "01" elsewhere, and then names its button. -/
def Obligations.ButtonFieldIsOneOfFiveCodes : Prop :=
  (∀ (f : List Bool), f.length = 10 →
    (∀ x, switchButton f = .ok x ↔ f = buttonBits x) ∧
    ((∀ x, f ≠ buttonBits x) → ∃ r, switchButton f = .error r)) ∧
  (∀ (x : Button) (k : Nat), k < 5 →
    bitSlice (buttonBits x) (2 * k) (2 * k + 1) = if k = x.index.toNat then [false, false] else [false, true])

/-- R200, R202: a 24-bit switch string is accepted exactly if it is the layout of a command at the configured polarity,
and then gives that command; every other string is rejected. -/
def Obligations.SwitchFieldsInvertTheLayout : Prop :=
  ∀ (c : Config) (b : List Bool), b.length = 24 →
    (∀ mask x p, switchFields c b = .ok (.switchCommand mask x p) ↔ b = switchString c.channelPolarity mask x p) ∧
    ((∀ mask x p, b ≠ switchString c.channelPolarity mask x p) → ∃ r, switchFields c b = .error r)

/-- R204 to R207: a 24-bit thermometer string is rejected exactly at the ID "11111111"; otherwise the ID, the sign, the
magnitude and the tenths are its bits, first bit most significant, and any battery code but "0000" is battery low. -/
def Obligations.ThermometerFieldsAreTheirBits : Prop :=
  ∀ b : List Bool, b.length = 24 →
    (bitSlice b 0 7 = [true, true, true, true, true, true, true, true] → ∃ r, thermFields b = .error r) ∧
    (bitSlice b 0 7 ≠ [true, true, true, true, true, true, true, true] →
      ∃ (id : BitVec 8) (mag : BitVec 7) (tenths : BitVec 4),
        thermFields b = .ok (.thermometerReading id (bitAt b 8) mag tenths
          (decide (bitSlice b 16 19 ≠ [false, false, false, false]))) ∧
        bitsOf id = bitSlice b 0 7 ∧ bitsOf mag = bitSlice b 9 15 ∧ bitsOf tenths = bitSlice b 20 23)

/-- R179: no frame passes the sync step of both families, so a switch sync is never a thermometer reading. -/
def Obligations.SwitchAndThermometerSyncsAreDisjoint : Prop :=
  ∀ (c : Config) (frame : List Dur), configLegal c = true →
    syncInRange c.switchRow (delayOf c.switchRow (frame.getD 0 0)) = true →
    syncInRange c.thermARow (delayOf c.thermARow (frame.getD 0 0)) = false ∧
    syncInRange c.thermBRow (delayOf c.thermBRow (frame.getD 0 0)) = false ∧
    (c.switchRow.layout = .switch →
      ∀ id sign mag tenths low, decodeFrame c frame ≠ .thermometerReading id sign mag tenths low)

/-- R180: at the hardware's values whatever THERM_B accepts THERM_A accepts, so no event comes from THERM_B; with
another THERM_B range it is reachable. -/
def Obligations.ThermBIsUnreachableAtTheDefaults : Prop :=
  (∀ (frame : List Dur) (ev : Event),
    tryProtocol Config.hardware Config.hardware.thermBRow frame = .ok ev →
    tryProtocol Config.hardware Config.hardware.thermARow frame = .ok ev) ∧
  (∃ (mn mx : Nat) (frame : List Dur) (ev : Event),
    let c := { Config.hardware with
      thermBRow := { Config.hardware.thermBRow with syncMin := mn, syncMax := mx } }
    configLegal c = true ∧ (∀ e, tryProtocol c c.thermARow frame ≠ .ok e) ∧
    tryProtocol c c.thermBRow frame = .ok ev ∧ decodeFrame c frame = ev)

/-- R182: a 65-entry frame always decodes to GenericSignal. -/
def Obligations.SixtyFiveEntryFramesAreGeneric : Prop :=
  ∀ frame : List Dur, frame.length = 65 → decodeFrame Config.hardware frame = .genericSignal frame

/-- R183, Scenario 3: a 49-entry frame with delay 500 always decodes to GenericSignal. -/
def Obligations.DelayFiveHundredIsGeneric : Prop :=
  ∀ frame : List Dur, frame.length = 49 →
    15500 ≤ (frame.getD 0 0).toNat → (frame.getD 0 0).toNat ≤ 15530 →
    decodeFrame Config.hardware frame = .genericSignal frame

/-- R213: the switch encoder's layout decodes back to its command, at either polarity. -/
def Obligations.SwitchFramesRoundTrip : Prop :=
  ∀ (p : ChannelPolarity) (mask : BitVec 5) (x : Button) (on : Bool) (frame : List Dur),
    frame.length = 49 → 9300 ≤ (frame.getD 0 0).toNat → (frame.getD 0 0).toNat ≤ 12430 →
    Spells Config.hardware.switchRow frame (switchString p mask x on) →
    decodeFrame { Config.hardware with channelPolarity := p } frame = .switchCommand mask x on

/-- The thermometer layout decodes to its reading (R204 to R209): ID, sign, magnitude, tenths, and battery low unless
the code is 0000. -/
def Obligations.ThermometerFramesDecode : Prop :=
  ∀ (id : BitVec 8) (sign : Bool) (mag : BitVec 7) (batt tenths : BitVec 4) (frame : List Dur),
    id ≠ 0xFF → frame.length = 49 → 7750 ≤ (frame.getD 0 0).toNat → (frame.getD 0 0).toNat ≤ 8090 →
    Spells Config.hardware.thermARow frame (thermoString id sign mag batt tenths) →
    decodeFrame Config.hardware frame = .thermometerReading id sign mag tenths (decide (batt ≠ 0))

/-- R214, Scenario 2: the reserved ID makes a thermometer frame a GenericSignal. -/
def Obligations.ReservedIdIsGeneric : Prop :=
  ∀ (frame : List Dur) (b : List Bool), frame.length = 49 → b.length = 24 →
    7750 ≤ (frame.getD 0 0).toNat → (frame.getD 0 0).toNat ≤ 8090 →
    Spells Config.hardware.thermARow frame b → bitSlice b 0 7 = [true, true, true, true, true, true, true, true] →
    (∀ n, ∃ r, tryProtocol Config.hardware (Config.hardware.row n) frame = .error r) ∧
    decodeFrame Config.hardware frame = .genericSignal frame

/-- R208: the temperature is the signed tenths value, exact in 16 bits of two's complement. -/
def Obligations.TemperatureIsExactSignedTenths : Prop :=
  ∀ (sign : Bool) (mag : BitVec 7) (tenths : BitVec 4),
    (thermValue sign mag tenths).toInt =
      (if sign then -((mag.toNat : Int) * 10 + tenths.toNat) else (mag.toNat : Int) * 10 + tenths.toNat) ∧
    -1285 ≤ (thermValue sign mag tenths).toInt ∧ (thermValue sign mag tenths).toInt ≤ 1285

/-! ### The classifier's codes, one at a time (log 3) -/

/-- HP_BIT0 and HP_BIT1 (R85, R174): the next bit of `b`; after the last pair the fields are extracted and the event
accepted, or the attempt rejected. In GENERIC's turn, after the last descriptor's, the frame passes through (R171). -/
def Obligations.HalfPairBitsSpellTheString : Prop :=
  ∀ (s : State) (i : Instr) (v : Bool), (i = .hpBit0 ∧ v = false) ∨ (i = .hpBit1 ∧ v = true) →
    (handedFrame s).length ≤ s.cfg.maxAccum →
    ∃ t, exec i s = .next t ∧
      (∀ desc, currentDesc s = some desc →
        (s.att.bits.length + 1 < (desc.expectedLength - 1) / 2 →
          LocalsBecome s t { s.att with bits := s.att.bits ++ [v] }) ∧
        ((desc.expectedLength - 1) / 2 ≤ s.att.bits.length + 1 →
          (∀ ev, layoutFields s.cfg desc.layout (s.att.bits ++ [v]) = .ok ev →
            AcceptedTo s t ev (noteLocals ev s.att)) ∧
          (∀ r, layoutFields s.cfg desc.layout (s.att.bits ++ [v]) = .error r → RejectedTo s t))) ∧
      (currentDesc s = none → RejectedTo s t)

/-- Every illegal code rejects the attempt (R85, R87, R88, R89, R91, R94): SS and LL pairs, channel pairs "10" and
"11", every button and power code without a row of its own, and the reserved thermometer ID. A reject never faults. -/
def Obligations.IllegalCodesRejectTheAttempt : Prop :=
  ∀ (s : State) (i : Instr), (handedFrame s).length ≤ s.cfg.maxAccum →
    (i = .hpIllegalSS ∨ i = .hpIllegalLL ∨ (∃ j, i = .swChIllegal10 j) ∨ (∃ j, i = .swChIllegal11 j) ∨
      (∃ code, i = .swBtnIllegal code ∧ WellFormed i) ∨ (∃ code, i = .swPwrIllegal code ∧ WellFormed i) ∨
      (∃ sign mag batt tenths, i = .thIdReserved sign mag batt tenths)) →
    ∃ t, exec i s = .next t ∧ RejectedTo s t

/-- SW_CH_ON and SW_CH_OFF (R87, R200): `ch[j]` takes the state the code stands for at the configured polarity. -/
def Obligations.ChannelCodesWriteTheirChannel : Prop :=
  ∀ (s : State) (j : Fin 5),
    (∃ t a, exec (.swChOn j) s = .next t ∧ LocalsBecome s t { s.att with ch := a } ∧
      ∀ k : Fin 5, a.getLsbD k =
        if k = j then decide (s.cfg.channelPolarity = .onIs00) else s.att.ch.getLsbD k) ∧
    (∃ t a, exec (.swChOff j) s = .next t ∧ LocalsBecome s t { s.att with ch := a } ∧
      ∀ k : Fin 5, a.getLsbD k =
        if k = j then decide (s.cfg.channelPolarity = .onIs01) else s.att.ch.getLsbD k)

/-- SW_BTN_A to SW_BTN_E (R88, R201) and SW_PWR_ON, SW_PWR_OFF (R89, R202): each writes its local. -/
def Obligations.ButtonAndPowerCodesWriteTheirLocal : Prop :=
  ∀ s : State,
    (∀ x, ∃ t, exec (buttonRow x) s = .next t ∧ LocalsBecome s t { s.att with btn := x }) ∧
    (∀ p, ∃ t, exec (powerRow p) s = .next t ∧ LocalsBecome s t { s.att with pwr := p })

/-- TH_BATT_OK and TH_BATT_LOW (R206): battery low unless the code is "0000". -/
def Obligations.BatteryCodesWriteTheFlag : Prop :=
  ∀ s : State,
    (∃ t, exec .thBattOk s = .next t ∧ LocalsBecome s t { s.att with battLow := false }) ∧
    (∀ code : BitVec 4, code ≠ 0 →
      ∃ t, exec (.thBattLow code) s = .next t ∧ LocalsBecome s t { s.att with battLow := true })

/-- SW_FRAME (R203): a string that is the layout of a command gives that command; every other string is rejected. -/
def Obligations.SwitchStringGivesCommandOrRejects : Prop :=
  ∀ (s : State) (chan btn : BitVec 10) (pwr : BitVec 4), (handedFrame s).length ≤ s.cfg.maxAccum →
    ∃ t, exec (.swFrame chan btn pwr) s = .next t ∧
      (∀ mask x p, bitsOf chan = channelString s.cfg.channelPolarity mask → bitsOf btn = buttonBits x →
        bitsOf pwr = powerBits p →
        AcceptedTo s t (.switchCommand mask x p) { s.att with ch := mask, btn := x, pwr := p }) ∧
      ((∀ mask x p, ¬(bitsOf chan = channelString s.cfg.channelPolarity mask ∧ bitsOf btn = buttonBits x ∧
        bitsOf pwr = powerBits p)) → RejectedTo s t)

/-- TH_FRAME (R209): every string with an ID other than 0xFF gives its reading. -/
def Obligations.ThermometerStringGivesReading : Prop :=
  ∀ (s : State) (id : BitVec 8) (sign : Bool) (mag : BitVec 7) (batt tenths : BitVec 4), id ≠ 0xFF →
    ∃ t, exec (.thFrame id sign mag batt tenths) s = .next t ∧
      AcceptedTo s t (.thermometerReading id sign mag tenths (decide (batt ≠ 0)))
        { s.att with id := id, sign := sign, mag := mag, tenths := tenths, battLow := decide (batt ≠ 0) }

/-- EV_SWITCH, EV_THERMO, EV_GENERIC (R92, R203, R209, R210): the event of that kind is shown, from the classifier's
locals or the handed frame. -/
def Obligations.EventKindsPresentTheirEvent : Prop :=
  ∀ s : State,
    (∃ t, exec .evSwitch s = .next t ∧
      AcceptedTo s t (.switchCommand s.att.ch s.att.btn s.att.pwr) s.att) ∧
    (∃ t, exec .evThermo s = .next t ∧
      AcceptedTo s t (.thermometerReading s.att.id s.att.sign s.att.mag s.att.tenths s.att.battLow) s.att) ∧
    ((handedFrame s).length ≤ s.cfg.maxAccum →
      ∃ t, exec .evGeneric s = .next t ∧ AcceptedTo s t (.genericSignal (handedFrame s)) s.att)

/-- Reading a command's codes one at a time, then presenting it, is reading its whole string: SW_FRAME is refined by
its channel, button and power rows and EV_SWITCH (R200 to R203). -/
def Obligations.SwitchCodesComposeToTheString : Prop :=
  ∀ (s : State) (mask : BitVec 5) (x : Button) (p : Bool) (chan btn : BitVec 10) (pwr : BitVec 4),
    bitsOf chan = channelString s.cfg.channelPolarity mask → bitsOf btn = buttonBits x → bitsOf pwr = powerBits p →
    ∃ t u,
      runInstrs ([0, 1, 2, 3, 4].map (fun j : Fin 5 =>
        channelRow s.cfg.channelPolarity j (mask.getLsbD j)) ++ [buttonRow x, powerRow p, .evSwitch]) s = .next t ∧
      exec (.swFrame chan btn pwr) s = .next u ∧
      t.out.Shows (.switchCommand mask x p) ∧ u.out.Shows (.switchCommand mask x p) ∧
      SameFraming u t ∧ SameSurroundings u t ∧ t.att = u.att

/-- Reading a frame's half-pulse symbols one at a time is step 3 onward of one protocol attempt (R170, R174 to R176): for
a frame that passes the length and sync steps of the descriptor being tried, an attempt that gives an event shows it at
the last symbol; one that rejects moves on at the first BAD symbol or, if none is BAD, at the last symbol. -/
def Obligations.SymbolsComposeToTheAttempt : Prop :=
  ∀ (s : State) (desc : Descriptor) (frame : List Dur), configLegal s.cfg = true → s.att.bits = [] →
    currentDesc s = some desc → (handedFrame s).length ≤ s.cfg.maxAccum →
    frame.length = desc.expectedLength → 3 ≤ frame.length →
    syncInRange desc (delayOf desc (frame.getD 0 0)) = true →
    (∀ ev, tryProtocol s.cfg desc frame = .ok ev →
      ∃ t, runInstrs ((pairSymbols desc frame.tail).map symbolRow) s = .next t ∧
        t.out.Shows ev ∧ SameFraming s t ∧ SameSurroundings s t ∧ t.att.turn = 0 ∧ t.att.bits = []) ∧
    (∀ r, tryProtocol s.cfg desc frame = .error r →
      ∃ (k : Nat) (t : State), k < (pairSymbols desc frame.tail).length ∧
        (∀ sym ∈ (pairSymbols desc frame.tail).take k, sym ≠ .bad) ∧
        ((pairSymbols desc frame.tail)[k]? = some .bad ∨ k + 1 = (pairSymbols desc frame.tail).length) ∧
        runInstrs (((pairSymbols desc frame.tail).take (k + 1)).map symbolRow) s = .next t ∧ RejectedTo s t)

/-! ### The whole machine -/

/-- The reset state meets the invariant. -/
def Obligations.ResetStateMeetsTheInvariant : Prop :=
  Inv State.reset

/-- R44, R31, R33, R34, R42, R93, R153: every step keeps the invariant, whatever word it consumes. -/
def Obligations.EveryStepKeepsTheInvariant : Prop :=
  ∀ s t : State, Inv s → step s = .next t → Inv t

/-- R39, R41, R247: no instruction changes a configuration constant, in any state, nor the words still to come. -/
def Obligations.NoInstructionWritesTheConfiguration : Prop :=
  ∀ (i : Instr) (s t : State), exec i s = .next t → SameSurroundings s t

/-- R36: the framing state and the buffers are written by the port operations only. -/
def Obligations.FieldCodesKeepTheFraming : Prop :=
  ∀ (i : Instr) (s t : State), isPortOp i = false → exec i s = .next t → SameFraming s t

/-- R30: the classifier holds no state between steps: no port operation reads or writes its locals (log 3). -/
def Obligations.PortOperationsIgnoreTheLocals : Prop :=
  ∀ (i : Instr) (s : State) (a : Attempt), isPortOp i = true →
    exec i (s.withAttempt a) = outcomeWithAttempt a (exec i s)

/-- R33, R34, R43, R35: stale buffer entries, the record of an earlier step, the classifier's locals and the free
values drawn so far change no event and no later framing. -/
def Obligations.StaleStateIsUnobservable : Prop :=
  ∀ (i : Instr) (s t s' : State), Inv s → SameLive s t → isPortOp i = true → exec i s = .next s' →
    ∃ t', exec i t = .next t' ∧ SameLive s' t' ∧ SameShown s'.out t'.out

/-- R240: every sequence of port words has a defined outcome, from every state of the invariant: each word is consumed,
no exception, fault or refusal occurs, and the run has one output record per word (R253). -/
def Obligations.PortSequencesNeverStop : Prop :=
  ∀ (s : State) (words : List InputWord), Inv s → (∀ w ∈ words, isPortWord w = true) →
    ∃ t, Host.Core.run core words.length { s with input := words } = .next t ∧ t.input = [] ∧ Inv t ∧
      ∃ outs, outputs words s = .next outs ∧ outs.length = words.length ∧ (words ≠ [] → outs.getLast? = some t.out)
end

