-- ==== Sys2Proof/Laws/Matcher.lean ====
section
/-!
SUPPORT. The matcher's tests as propositions (R120, R122, R123, R125), and what a legal configuration gives (R42).
-/

namespace Sys2Proof.Machine

theorem isLong_eq_true {c : Config} {d : Dur} : isLong c d = true ↔ c.longMinUs < d.toNat := by
  simp [isLong]

theorem isLong_eq_false {c : Config} {d : Dur} : isLong c d = false ↔ ¬ c.longMinUs < d.toNat := by
  simp [isLong]

theorem repeatMatch_eq_true {c : Config} {d s : Dur} : repeatMatch c d s = true ↔ absDiff d s ≤ c.repeatTolUs := by
  simp [repeatMatch]

theorem lenKnown_eq_true {c : Config} {n : Nat} : lenKnown c n = true ↔ n ∈ c.frameLengths := by
  simp [lenKnown]

theorem syncInRange_eq_true {desc : Descriptor} {delay : Nat} :
    syncInRange desc delay = true ↔ desc.syncMin ≤ delay ∧ delay ≤ desc.syncMax := by
  simp [syncInRange]

theorem rangesDisjoint_eq_true {p q : Descriptor} :
    rangesDisjoint p q = true ↔
      (p.syncMax < q.syncMin ∨ q.syncMax < p.syncMin) ∧
      (syncPulseMax p < syncPulseMin q ∨ syncPulseMax q < syncPulseMin p) := by
  simp [rangesDisjoint]

/-- What R42 asks of every row. -/
theorem row_legal {c : Config} (hc : configLegal c = true) (n : DescName) :
    (c.row n).expectedLength ∈ c.frameLengths ∧ (c.row n).expectedLength % 2 = 1 ∧ 1 ≤ (c.row n).syncDivisor := by
  simp only [configLegal, Bool.and_eq_true] at hc
  have key : ∀ desc, rowLegal c desc = true → desc.expectedLength ∈ c.frameLengths ∧ desc.expectedLength % 2 = 1 ∧
      1 ≤ desc.syncDivisor := by
    intro desc h
    simp only [rowLegal, Bool.and_eq_true, decide_eq_true_eq] at h
    exact ⟨h.1.1.1.1.1.1.1.1, h.1.1.1.1.1.1.1.2, h.1.1.1.1.1.1.2⟩
  cases n
  · exact key _ hc.1.1.1.1.1.1
  · exact key _ hc.1.1.1.1.1.2
  · exact key _ hc.1.1.1.1.2

/-- Under a legal configuration the switch ranges meet neither thermometer's (R42 item 3). -/
theorem ranges_legal {c : Config} (hc : configLegal c = true) :
    rangesDisjoint c.switchRow c.thermARow = true ∧ rangesDisjoint c.switchRow c.thermBRow = true := by
  simp only [configLegal, Bool.and_eq_true] at hc
  exact ⟨hc.1.1.1.2, hc.1.1.2⟩

/-- Under a legal configuration a known length fits the buffers and the record (R42 item 4). -/
theorem known_length_fits {c : Config} (hc : configLegal c = true) {n : Nat} (hn : n ∈ c.frameLengths) :
    n ≤ c.maxAccum := by
  simp only [configLegal, Bool.and_eq_true, List.all_eq_true, decide_eq_true_eq] at hc
  exact hc.1.2 n hn

end Sys2Proof.Machine
end

