-- ==== Sys2Proof/Laws/State.lean ====
section
/-!
SUPPORT. One lemma per field per named update of the state (each true by rfl), so that no later proof unfolds a record
update.
-/

namespace Sys2Proof.Machine

section ClearEvent
variable (s : State)
@[simp] theorem clearEvent_st : (clearEvent s).st = s.st := rfl
@[simp] theorem clearEvent_cnt : (clearEvent s).cnt = s.cnt := rfl
@[simp] theorem clearEvent_buf : (clearEvent s).buf = s.buf := rfl
@[simp] theorem clearEvent_fbuf : (clearEvent s).fbuf = s.fbuf := rfl
@[simp] theorem clearEvent_flen : (clearEvent s).flen = s.flen := rfl
@[simp] theorem clearEvent_out : (clearEvent s).out = openRecord s.cfg s.draws := rfl
@[simp] theorem clearEvent_cfg : (clearEvent s).cfg = s.cfg := rfl
@[simp] theorem clearEvent_input : (clearEvent s).input = s.input := rfl
@[simp] theorem clearEvent_att : (clearEvent s).att = s.att := rfl
end ClearEvent

section PresentEvent
variable (ev : Event) (s : State)
@[simp] theorem presentEvent_st : (presentEvent ev s).st = s.st := rfl
@[simp] theorem presentEvent_cnt : (presentEvent ev s).cnt = s.cnt := rfl
@[simp] theorem presentEvent_buf : (presentEvent ev s).buf = s.buf := rfl
@[simp] theorem presentEvent_fbuf : (presentEvent ev s).fbuf = s.fbuf := rfl
@[simp] theorem presentEvent_flen : (presentEvent ev s).flen = s.flen := rfl
@[simp] theorem presentEvent_out : (presentEvent ev s).out = eventRecord s.cfg s.draws ev := rfl
@[simp] theorem presentEvent_cfg : (presentEvent ev s).cfg = s.cfg := rfl
@[simp] theorem presentEvent_input : (presentEvent ev s).input = s.input := rfl
@[simp] theorem presentEvent_att : (presentEvent ev s).att = s.att := rfl
end PresentEvent

section EmitFrame
variable (frame : List Dur) (s : State)
@[simp] theorem emitFrame_st : (emitFrame frame s).st = s.st := rfl
@[simp] theorem emitFrame_cnt : (emitFrame frame s).cnt = s.cnt := rfl
@[simp] theorem emitFrame_buf : (emitFrame frame s).buf = s.buf := rfl
@[simp] theorem emitFrame_fbuf : (emitFrame frame s).fbuf = s.fbuf := rfl
@[simp] theorem emitFrame_flen : (emitFrame frame s).flen = s.flen := rfl
@[simp] theorem emitFrame_out : (emitFrame frame s).out = eventRecord s.cfg s.draws (decodeFrame s.cfg frame) := rfl
@[simp] theorem emitFrame_cfg : (emitFrame frame s).cfg = s.cfg := rfl
@[simp] theorem emitFrame_input : (emitFrame frame s).input = s.input := rfl
@[simp] theorem emitFrame_att : (emitFrame frame s).att = s.att := rfl
end EmitFrame

section Buffers
variable (i : Nat) (d : Dur) (s : State)
@[simp] theorem bufWrite_st : (bufWrite i d s).st = s.st := rfl
@[simp] theorem bufWrite_cnt : (bufWrite i d s).cnt = s.cnt := rfl
@[simp] theorem bufWrite_buf : (bufWrite i d s).buf = s.buf.set i d := rfl
@[simp] theorem bufWrite_fbuf : (bufWrite i d s).fbuf = s.fbuf := rfl
@[simp] theorem bufWrite_flen : (bufWrite i d s).flen = s.flen := rfl
@[simp] theorem bufWrite_out : (bufWrite i d s).out = s.out := rfl
@[simp] theorem bufWrite_cfg : (bufWrite i d s).cfg = s.cfg := rfl
@[simp] theorem bufWrite_input : (bufWrite i d s).input = s.input := rfl
@[simp] theorem bufWrite_att : (bufWrite i d s).att = s.att := rfl

@[simp] theorem startAccum_st : (startAccum d s).st = s.st := rfl
@[simp] theorem startAccum_cnt : (startAccum d s).cnt = 1 := rfl
@[simp] theorem startAccum_buf : (startAccum d s).buf = s.buf.set 0 d := rfl
@[simp] theorem startAccum_fbuf : (startAccum d s).fbuf = s.fbuf := rfl
@[simp] theorem startAccum_flen : (startAccum d s).flen = s.flen := rfl
@[simp] theorem startAccum_out : (startAccum d s).out = s.out := rfl
@[simp] theorem startAccum_cfg : (startAccum d s).cfg = s.cfg := rfl
@[simp] theorem startAccum_input : (startAccum d s).input = s.input := rfl
@[simp] theorem startAccum_att : (startAccum d s).att = s.att := rfl

@[simp] theorem appendPulse_st : (appendPulse d s).st = s.st := rfl
@[simp] theorem appendPulse_cnt : (appendPulse d s).cnt = s.cnt + 1 := rfl
@[simp] theorem appendPulse_buf : (appendPulse d s).buf = s.buf.set s.cnt d := rfl
@[simp] theorem appendPulse_fbuf : (appendPulse d s).fbuf = s.fbuf := rfl
@[simp] theorem appendPulse_flen : (appendPulse d s).flen = s.flen := rfl
@[simp] theorem appendPulse_out : (appendPulse d s).out = s.out := rfl
@[simp] theorem appendPulse_cfg : (appendPulse d s).cfg = s.cfg := rfl
@[simp] theorem appendPulse_input : (appendPulse d s).input = s.input := rfl
@[simp] theorem appendPulse_att : (appendPulse d s).att = s.att := rfl

@[simp] theorem bufRead_clearEvent : bufRead (clearEvent s) i = bufRead s i := rfl
@[simp] theorem bufFrame_clearEvent : bufFrame (clearEvent s) = bufFrame s := rfl
@[simp] theorem firstFrame_clearEvent : firstFrame (clearEvent s) = firstFrame s := rfl
@[simp] theorem handedFrame_clearEvent : handedFrame (clearEvent s) = handedFrame s := rfl
@[simp] theorem qualifies_clearEvent : qualifies d (clearEvent s) = qualifies d s := rfl
@[simp] theorem currentDesc_clearEvent : currentDesc (clearEvent s) = currentDesc s := rfl
end Buffers

section AcceptEvent
variable (ev : Event) (s : State)
@[simp] theorem acceptEvent_st : (acceptEvent ev s).st = s.st := rfl
@[simp] theorem acceptEvent_cnt : (acceptEvent ev s).cnt = s.cnt := rfl
@[simp] theorem acceptEvent_buf : (acceptEvent ev s).buf = s.buf := rfl
@[simp] theorem acceptEvent_fbuf : (acceptEvent ev s).fbuf = s.fbuf := rfl
@[simp] theorem acceptEvent_flen : (acceptEvent ev s).flen = s.flen := rfl
@[simp] theorem acceptEvent_out : (acceptEvent ev s).out = eventRecord s.cfg s.draws ev := rfl
@[simp] theorem acceptEvent_cfg : (acceptEvent ev s).cfg = s.cfg := rfl
@[simp] theorem acceptEvent_input : (acceptEvent ev s).input = s.input := rfl
@[simp] theorem acceptEvent_att : (acceptEvent ev s).att = { s.att with turn := 0, bits := [] } := rfl
end AcceptEvent

section WithAttempt
variable (a : Attempt) (s : State)
@[simp] theorem withAttempt_st : (s.withAttempt a).st = s.st := rfl
@[simp] theorem withAttempt_cnt : (s.withAttempt a).cnt = s.cnt := rfl
@[simp] theorem withAttempt_buf : (s.withAttempt a).buf = s.buf := rfl
@[simp] theorem withAttempt_fbuf : (s.withAttempt a).fbuf = s.fbuf := rfl
@[simp] theorem withAttempt_flen : (s.withAttempt a).flen = s.flen := rfl
@[simp] theorem withAttempt_out : (s.withAttempt a).out = s.out := rfl
@[simp] theorem withAttempt_cfg : (s.withAttempt a).cfg = s.cfg := rfl
@[simp] theorem withAttempt_input : (s.withAttempt a).input = s.input := rfl
@[simp] theorem withAttempt_att : (s.withAttempt a).att = a := rfl
@[simp] theorem withAttempt_draws : (s.withAttempt a).draws = s.draws := rfl
end WithAttempt

section OpenRecord
variable (c : Config) (n : Nat)
@[simp] theorem openRecord_evValid : (openRecord c n).evValid = false := rfl
@[simp] theorem openRecord_gFrame_length : (openRecord c n).gFrame.length = c.maxAccum := by simp [openRecord]

/-- The frame length of a record is a count (R92, R32). -/
theorem openRecord_gLen : (openRecord c n).gLen < countBound c := Nat.mod_lt _ (Nat.two_pow_pos _)
end OpenRecord

/-- Every count up to MAX_ACCUM has a value of its own (R32). -/
theorem maxAccum_lt_countBound (c : Config) : c.maxAccum < countBound c := Nat.lt_log2_self

section EventRecord
variable (c : Config) (n : Nat) (ev : Event)

@[simp] theorem eventRecord_evValid : (eventRecord c n ev).evValid = true := by cases ev <;> rfl

@[simp] theorem eventRecord_gFrame_length : (eventRecord c n ev).gFrame.length = c.maxAccum := by
  cases ev <;> simp [eventRecord]

theorem eventRecord_kind_legal : (eventRecord c n ev).kind ≠ .reserved := by
  cases ev <;> simp [eventRecord]

theorem eventRecord_gLen (h : ∀ f, ev = .genericSignal f → f.length ≤ c.maxAccum) :
    (eventRecord c n ev).gLen < countBound c := by
  cases ev with
  | genericSignal f => exact Nat.lt_of_le_of_lt (h f rfl) (maxAccum_lt_countBound c)
  | switchCommand | thermometerReading => exact openRecord_gLen c n
end EventRecord

/-- A record without an event shows none. -/
theorem not_shows_of_invalid {o : OutRecord} (h : o.evValid = false) (ev : Event) : ¬ o.Shows ev := by
  cases ev <;> simp [OutRecord.Shows, h]

/-- A shown event is valid. -/
theorem OutRecord.Shows.valid {o : OutRecord} {ev : Event} (h : o.Shows ev) : o.evValid = true := by
  cases ev <;> exact h.1

/-- The record of an event shows it, if a frame passed through fits `g_frame` (R92). -/
theorem eventRecord_shows (c : Config) (n : Nat) (ev : Event)
    (h : ∀ f, ev = .genericSignal f → f.length ≤ c.maxAccum) : (eventRecord c n ev).Shows ev := by
  cases ev with
  | switchCommand mask btn on => exact ⟨rfl, rfl, rfl, rfl, rfl⟩
  | thermometerReading => exact ⟨rfl, rfl, rfl, rfl, rfl, rfl, rfl, rfl⟩
  | genericSignal f =>
    have hf : f.length ≤ c.maxAccum := h f rfl
    refine ⟨rfl, rfl, rfl, ?_⟩
    apply List.ext_getElem?
    intro i
    by_cases hi : i < f.length
    · have hn : i < c.maxAccum := by omega
      simp [eventRecord, hi, hn]
    · simp [hi]

/-- A record shows at most one event. -/
theorem OutRecord.Shows.unique {o : OutRecord} {ev ev' : Event} (h : o.Shows ev) (h' : o.Shows ev') : ev' = ev := by
  have index_injective : ∀ x y : Button, x.index = y.index → x = y := by
    intro x y; cases x <;> cases y <;> decide
  cases ev <;> cases ev' <;> simp only [OutRecord.Shows] at h h'
  case switchCommand.switchCommand =>
    obtain ⟨-, -, h1, h2, h3⟩ := h
    obtain ⟨-, -, h1', h2', h3'⟩ := h'
    rw [← h1, ← h1', ← h3, ← h3', index_injective _ _ (h2'.symm.trans h2)]
  case thermometerReading.thermometerReading =>
    obtain ⟨-, -, h1, h2, h3, h4, h5, -⟩ := h
    obtain ⟨-, -, h1', h2', h3', h4', h5', -⟩ := h'
    rw [← h1, ← h1', ← h2, ← h2', ← h3, ← h3', ← h4, ← h4', ← h5, ← h5']
  case genericSignal.genericSignal =>
    obtain ⟨-, -, h1, h2⟩ := h
    obtain ⟨-, -, h1', h2'⟩ := h'
    rw [← h1] at h2
    rw [← h1'] at h2'
    rw [← h2, ← h2']
  all_goals cases h.2.1.symm.trans h'.2.1

end Sys2Proof.Machine
end

