-- ==== Sys2Proof/Laws/Ops.lean ====
section
/-!
SUPPORT. What each shared operation can do, said once: the case of PULSE per framing state, accept, reject and the
field extraction. Later proofs cite these instead of unfolding the operations.
-/

namespace Sys2Proof.Machine

/-! ### PULSE by framing state (R141) -/

theorem exec_pulse_idle {s : State} (d : Dur) (h : s.st = .idle) :
    exec (.pulse d) s = .next (idlePulse d (clearEvent s)) := by
  simp only [exec, execPulse, h]

theorem exec_pulse_accum {s : State} (d : Dur) (h : s.st = .accum) :
    exec (.pulse d) s =
      .next (if isLong s.cfg d then accumLong d (clearEvent s) else accumData d (clearEvent s)) := by
  simp only [exec, execPulse, h]

theorem exec_pulse_repeatPending {s : State} (d : Dur) (h : s.st = .repeatPending) :
    exec (.pulse d) s =
      .next (if isLong s.cfg d then repLong d (clearEvent s) else repData d (clearEvent s)) := by
  simp only [exec, execPulse, h]

theorem qualifies_eq_true {d : Dur} {s : State} :
    qualifies d s = true ↔ s.cnt ∈ s.cfg.frameLengths ∧ absDiff d (bufRead s 0) ≤ s.cfg.repeatTolUs := by
  simp [qualifies, lenKnown, repeatMatch]

/-! The outcome of PULSE, one equation per case of R142 to R148. -/

section Pulse
variable {s : State} {d : Dur}

theorem exec_pulse_start (h : s.st = .idle) (hl : s.cfg.longMinUs < d.toNat) :
    exec (.pulse d) s = .next { startAccum d (clearEvent s) with st := .accum } := by
  simp only [exec_pulse_idle d h, idlePulse, clearEvent_cfg, isLong_eq_true.2 hl, if_true]

theorem exec_pulse_ignored (h : s.st = .idle) (hl : ¬ s.cfg.longMinUs < d.toNat) :
    exec (.pulse d) s = .next (clearEvent s) := by
  simp only [exec_pulse_idle d h, idlePulse, clearEvent_cfg, isLong_eq_false.2 hl, Bool.false_eq_true, if_false]

theorem exec_pulse_append (h : s.st = .accum) (hl : ¬ s.cfg.longMinUs < d.toNat) (hc : s.cnt < s.cfg.maxAccum) :
    exec (.pulse d) s = .next (appendPulse d (clearEvent s)) := by
  simp only [exec_pulse_accum d h, accumData, clearEvent_cfg, clearEvent_cnt, isLong_eq_false.2 hl, Bool.false_eq_true,
    if_false, hc, if_true]

theorem exec_pulse_overflow (h : s.st = .accum) (hl : ¬ s.cfg.longMinUs < d.toNat) (hc : ¬ s.cnt < s.cfg.maxAccum) :
    exec (.pulse d) s = .next { clearEvent s with st := .idle, cnt := 0 } := by
  simp only [exec_pulse_accum d h, accumData, clearEvent_cfg, clearEvent_cnt, isLong_eq_false.2 hl, Bool.false_eq_true,
    if_false, hc]

theorem exec_pulse_emit (h : s.st = .accum) (hl : s.cfg.longMinUs < d.toNat)
    (hq : s.cnt ∈ s.cfg.frameLengths ∧ absDiff d (bufRead s 0) ≤ s.cfg.repeatTolUs)
    (hm : s.cfg.confirmMode = .singleShot) :
    exec (.pulse d) s = .next { emitFrame (bufFrame s) (clearEvent s) with st := .idle, cnt := 0 } := by
  simp only [exec_pulse_accum d h, accumLong, clearEvent_cfg, isLong_eq_true.2 hl, if_true, qualifies_clearEvent,
    qualifies_eq_true.2 hq, hm, bufFrame_clearEvent]

theorem exec_pulse_hold (h : s.st = .accum) (hl : s.cfg.longMinUs < d.toNat)
    (hq : s.cnt ∈ s.cfg.frameLengths ∧ absDiff d (bufRead s 0) ≤ s.cfg.repeatTolUs)
    (hm : s.cfg.confirmMode = .double) :
    exec (.pulse d) s = .next (doubleFirst d (clearEvent s)) := by
  simp only [exec_pulse_accum d h, accumLong, clearEvent_cfg, isLong_eq_true.2 hl, if_true, qualifies_clearEvent,
    qualifies_eq_true.2 hq, hm]

theorem exec_pulse_restart (h : s.st = .accum) (hl : s.cfg.longMinUs < d.toNat)
    (hq : ¬(s.cnt ∈ s.cfg.frameLengths ∧ absDiff d (bufRead s 0) ≤ s.cfg.repeatTolUs)) :
    exec (.pulse d) s = .next (startAccum d (clearEvent s)) := by
  have hq' : qualifies d s = false := by rw [← Bool.not_eq_true, qualifies_eq_true]; exact hq
  simp only [exec_pulse_accum d h, accumLong, isLong_eq_true.2 hl, if_true, qualifies_clearEvent, hq',
    Bool.false_eq_true, if_false, restartAccum]

theorem exec_pulse_repeatAppend (h : s.st = .repeatPending) (hl : ¬ s.cfg.longMinUs < d.toNat)
    (hc : s.cnt < s.cfg.maxAccum) : exec (.pulse d) s = .next (appendPulse d (clearEvent s)) := by
  simp only [exec_pulse_repeatPending d h, repData, clearEvent_cfg, clearEvent_cnt, isLong_eq_false.2 hl,
    Bool.false_eq_true, if_false, hc, if_true]

theorem exec_pulse_repeatOverflow (h : s.st = .repeatPending) (hl : ¬ s.cfg.longMinUs < d.toNat)
    (hc : ¬ s.cnt < s.cfg.maxAccum) :
    exec (.pulse d) s = .next { clearEvent s with st := .idle, cnt := 0, flen := 0 } := by
  simp only [exec_pulse_repeatPending d h, repData, clearEvent_cfg, clearEvent_cnt, isLong_eq_false.2 hl,
    Bool.false_eq_true, if_false, hc]

theorem exec_pulse_confirm (h : s.st = .repeatPending) (hl : s.cfg.longMinUs < d.toNat)
    (hq : s.cnt = s.flen ∧ absDiff d (bufRead s 0) ≤ s.cfg.repeatTolUs) :
    exec (.pulse d) s = .next { emitFrame (firstFrame s) (clearEvent s) with st := .idle, cnt := 0, flen := 0 } := by
  simp only [exec_pulse_repeatPending d h, repLong, isLong_eq_true.2 hl, if_true, clearEvent_cnt, clearEvent_flen,
    clearEvent_cfg, bufRead_clearEvent, repeatMatch_eq_true, if_pos hq, firstFrame_clearEvent]

theorem exec_pulse_discard (h : s.st = .repeatPending) (hl : s.cfg.longMinUs < d.toNat)
    (hq : ¬(s.cnt = s.flen ∧ absDiff d (bufRead s 0) ≤ s.cfg.repeatTolUs)) :
    exec (.pulse d) s = .next { startAccum d (clearEvent s) with flen := 0, st := .accum } := by
  simp only [exec_pulse_repeatPending d h, repLong, isLong_eq_true.2 hl, if_true, clearEvent_cnt, clearEvent_flen,
    clearEvent_cfg, bufRead_clearEvent, repeatMatch_eq_true, if_neg hq]

end Pulse

/-- A port operation that answers a next state leaves the surroundings and the classifier's locals alone. -/
theorem portOp_frame {i : Instr} {s t : State} (hi : isPortOp i = true) (h : exec i s = .next t) :
    SameSurroundings s t ∧ t.att = s.att := by
  cases i <;> simp only [isPortOp, Bool.false_eq_true] at hi
  case reset => cases h; exact ⟨⟨rfl, rfl⟩, rfl⟩
  case nop => cases h; exact ⟨⟨rfl, rfl⟩, rfl⟩
  case pulse d =>
    cases hst : s.st with
    | idle =>
      rw [exec_pulse_idle d hst] at h; cases h
      unfold idlePulse; split <;> exact ⟨⟨rfl, rfl⟩, rfl⟩
    | accum =>
      rw [exec_pulse_accum d hst] at h; cases h
      split
      · unfold accumLong; split
        · split <;> exact ⟨⟨rfl, rfl⟩, rfl⟩
        · exact ⟨⟨rfl, rfl⟩, rfl⟩
      · unfold accumData; split <;> exact ⟨⟨rfl, rfl⟩, rfl⟩
    | repeatPending =>
      rw [exec_pulse_repeatPending d hst] at h; cases h
      split
      · unfold repLong; split <;> exact ⟨⟨rfl, rfl⟩, rfl⟩
      · unfold repData; split <;> exact ⟨⟨rfl, rfl⟩, rfl⟩
    | code3 => simp only [exec, execPulse, hst] at h; cases h

/-! ### Accept, reject and the fields of an attempt -/

/-- An accepted event is shown, if a frame passed through fits `g_frame` (R176, R92). -/
theorem acceptEvent_acceptedTo (s : State) (ev : Event) (a : Attempt)
    (hev : ∀ f, ev = .genericSignal f → f.length ≤ s.cfg.maxAccum) :
    AcceptedTo s (acceptEvent ev { clearEvent s with att := a }) ev a :=
  ⟨⟨rfl, rfl, rfl, rfl, rfl⟩, ⟨rfl, rfl⟩, eventRecord_shows _ _ _ hev, rfl⟩

/-- A reject has the effect of R170 and R94. -/
theorem rejectAttempt_rejectedTo (s : State) (h : (handedFrame s).length ≤ s.cfg.maxAccum) :
    RejectedTo s (rejectAttempt (clearEvent s)) := by
  unfold rejectAttempt
  by_cases hd : s.att.turn + 1 < s.cfg.registryOrder.length
  · simp only [clearEvent_att, clearEvent_cfg, hd, if_true]
    exact ⟨⟨rfl, rfl, rfl, rfl, rfl⟩, ⟨rfl, rfl⟩, fun _ => ⟨rfl, rfl⟩, fun hn => absurd hd hn⟩
  · simp only [clearEvent_att, clearEvent_cfg, hd, if_false]
    exact ⟨⟨rfl, rfl, rfl, rfl, rfl⟩, ⟨rfl, rfl⟩, fun hn => absurd hn hd, fun _ =>
      ⟨eventRecord_shows _ _ (.genericSignal (handedFrame s)) (fun f hf => by cases hf; exact h), rfl⟩⟩

/-- The field rules never give a GenericSignal (R175). -/
theorem layoutFields_not_generic {c : Config} {l : Layout} {b : List Bool} {ev : Event} {f : List Dur}
    (h : layoutFields c l b = .ok ev) : ev ≠ .genericSignal f := by
  rintro rfl
  cases l with
  | switch =>
    simp only [layoutFields, switchFields, bind, Except.bind, pure, Except.pure] at h
    repeat' split at h
    all_goals cases h
  | therm =>
    simp only [layoutFields, thermFields, bind, Except.bind, pure, Except.pure] at h
    split at h <;> cases h

theorem runFields_ok {s : State} {l : Layout} {b : List Bool} {ev : Event} (h : layoutFields s.cfg l b = .ok ev) :
    AcceptedTo s (runFields l b (clearEvent s)) ev (noteLocals ev s.att) := by
  have : runFields l b (clearEvent s) = acceptEvent ev { clearEvent s with att := noteLocals ev s.att } := by
    simp only [runFields, clearEvent_cfg, h, clearEvent_att]
  rw [this]
  exact acceptEvent_acceptedTo s ev _ (fun f hf => absurd hf (layoutFields_not_generic h))

theorem runFields_error {s : State} {l : Layout} {b : List Bool} {r : Reject} (h : layoutFields s.cfg l b = .error r)
    (hf : (handedFrame s).length ≤ s.cfg.maxAccum) : RejectedTo s (runFields l b (clearEvent s)) := by
  have : runFields l b (clearEvent s) = rejectAttempt (clearEvent s) := by
    simp only [runFields, clearEvent_cfg, h]
  rw [this]
  exact rejectAttempt_rejectedTo s hf

/-- A reject keeps the framing and the surroundings, whatever the frame's length. -/
theorem rejectAttempt_frame (s : State) :
    SameFraming s (rejectAttempt s) ∧ SameSurroundings s (rejectAttempt s) ∧ (rejectAttempt s).att.id = s.att.id := by
  unfold rejectAttempt
  split <;> exact ⟨⟨rfl, rfl, rfl, rfl, rfl⟩, ⟨rfl, rfl⟩, rfl⟩

/-- Extracting fields keeps the framing and the surroundings. -/
theorem runFields_frame (l : Layout) (b : List Bool) (s : State) :
    SameFraming s (runFields l b s) ∧ SameSurroundings s (runFields l b s) := by
  unfold runFields
  split
  · exact ⟨⟨rfl, rfl, rfl, rfl, rfl⟩, ⟨rfl, rfl⟩⟩
  · exact ⟨(rejectAttempt_frame s).1, (rejectAttempt_frame s).2.1⟩

/-! ### The reading of one code -/

theorem readSymbol_bit (v : Bool) (s : State) : readSymbol (if v then .bit1 else .bit0) s = readBit v s := by
  cases v <;> rfl

/-- A bit read before the last pair extends the string (R174). -/
theorem readBit_more {s : State} {desc : Descriptor} (v : Bool) (h : currentDesc s = some desc)
    (hl : s.att.bits.length + 1 < pairCount desc) :
    readBit v s = { s with att := { s.att with bits := s.att.bits ++ [v] } } := by
  simp only [readBit, h, List.length_append, List.length_cons, List.length_nil, Nat.zero_add, hl, if_true]

/-- The bit of the last pair completes the string, and the fields are extracted (R175). -/
theorem readBit_last {s : State} {desc : Descriptor} (v : Bool) (h : currentDesc s = some desc)
    (hl : pairCount desc ≤ s.att.bits.length + 1) : readBit v s = runFields desc.layout (s.att.bits ++ [v]) s := by
  simp only [readBit, h, List.length_append, List.length_cons, List.length_nil, Nat.zero_add, Nat.not_lt.2 hl, if_false]

/-- In GENERIC's turn nothing is tested (R171). -/
theorem readBit_of_generic {s : State} (v : Bool) (h : currentDesc s = none) : readBit v s = rejectAttempt s := by
  simp only [readBit, h]

theorem readSymbol_bad (s : State) : readSymbol .bad s = rejectAttempt s := rfl

theorem readChannel_ok {s : State} {j : Fin 5} {p : List Bool} {on : Bool} (h : channelState s.cfg p = .ok on) :
    readChannel j p s = { s with att := { s.att with ch := setChannel s.att.ch j on } } := by
  simp only [readChannel, h]

theorem readChannel_error {s : State} {j : Fin 5} {p : List Bool} {r : Reject} (h : channelState s.cfg p = .error r) :
    readChannel j p s = rejectAttempt s := by
  simp only [readChannel, h]

theorem readButton_ok {s : State} {f : List Bool} {x : Button} (h : switchButton f = .ok x) :
    readButton f s = { s with att := { s.att with btn := x } } := by
  simp only [readButton, h]

theorem readButton_error {s : State} {f : List Bool} {r : Reject} (h : switchButton f = .error r) :
    readButton f s = rejectAttempt s := by
  simp only [readButton, h]

theorem readPower_ok {s : State} {f : List Bool} {on : Bool} (h : switchPower f = .ok on) :
    readPower f s = { s with att := { s.att with pwr := on } } := by
  simp only [readPower, h]

theorem readPower_error {s : State} {f : List Bool} {r : Reject} (h : switchPower f = .error r) :
    readPower f s = rejectAttempt s := by
  simp only [readPower, h]

/-! ### Before the instruction -/

/-- The step runs exactly in the states of the specification under a legal configuration (R7, R31, R93). -/
theorem stopReason_eq_none {s : State} :
    stopReason s = none ↔
      s.st ≠ .code3 ∧ configLegal s.cfg = true ∧ ¬(s.out.evValid = true ∧ s.out.kind = .reserved) := by
  unfold stopReason
  cases s.st <;> simp only [ne_eq, reduceCtorEq, not_false_eq_true, true_and, not_true_eq_false, false_and] <;>
    cases configLegal s.cfg <;> simp

theorem step_of_stopReason_none {s : State} (h : stopReason s = none) :
    step s = exec (portOperand s.cfg (decode (fetchWord s).1)) (fetchWord s).2 := by
  simp only [step, h]

/-- At a width of at least 32 bits the port takes the whole operand (R81, log 17). -/
theorem durOperand_of_wide {c : Config} (h : 32 ≤ c.durW) (d : Dur) : durOperand c d = d := by
  unfold durOperand
  rw [Nat.mod_eq_of_lt (Nat.lt_of_lt_of_le d.isLt (Nat.pow_le_pow_right (by decide) h)), BitVec.ofNat_toNat,
    BitVec.setWidth_eq]

theorem portOperand_of_wide {c : Config} (h : 32 ≤ c.durW) (i : Instr) : portOperand c i = i := by
  cases i <;> simp only [portOperand, durOperand_of_wide h]

end Sys2Proof.Machine
end

