-- ==== Sys2Proof/Laws/Classifier.lean ====
section
/-!
SUPPORT. The classifier's functions, each described once: when an attempt succeeds, which bits a frame spells, and
what a frame that no descriptor decodes becomes.
-/

namespace Sys2Proof.Machine

/-- An attempt succeeds exactly if length, sync and pairs pass and the fields give the event (R170). -/
theorem tryProtocol_eq_ok {c : Config} {desc : Descriptor} {frame : List Dur} {ev : Event} :
    tryProtocol c desc frame = .ok ev ↔
      frame.length = desc.expectedLength ∧ syncInRange desc (delayOf desc (frame.getD 0 0)) = true ∧
      ∃ b, extractBits desc frame = .ok b ∧ layoutFields c desc.layout b = .ok ev := by
  unfold tryProtocol checkLength checkSync
  by_cases h1 : frame.length = desc.expectedLength
  · by_cases h2 : syncInRange desc (delayOf desc (frame.getD 0 0)) = true
    · cases h3 : extractBits desc frame <;>
        simp only [h1, h2, if_true, bind, Except.bind, true_and, reduceCtorEq, false_and, exists_false, Except.ok.injEq,
          exists_eq_left']
    · simp only [h1, h2, if_true, bind, Except.bind, true_and, reduceCtorEq, false_and, Bool.false_eq_true, if_false]
  · simp only [h1, if_false, bind, Except.bind, reduceCtorEq, false_and]

/-- A frame outside a descriptor's sync window is rejected (R173). -/
theorem tryProtocol_sync_error {c : Config} {desc : Descriptor} {frame : List Dur}
    (h1 : frame.length = desc.expectedLength) (h2 : syncInRange desc (delayOf desc (frame.getD 0 0)) = false) :
    tryProtocol c desc frame = .error .sync := by
  unfold tryProtocol checkLength checkSync
  simp only [h1, h2, if_true, bind, Except.bind, Bool.false_eq_true, if_false]

/-- A frame of another length is rejected (R172). -/
theorem tryProtocol_length_error {c : Config} {desc : Descriptor} {frame : List Dur}
    (h1 : frame.length ≠ desc.expectedLength) : tryProtocol c desc frame = .error .len := by
  unfold tryProtocol checkLength
  simp only [h1, if_false, bind, Except.bind]

/-- A symbol spells the bit v exactly if the halves are in v's order (R127). -/
theorem pairSymbol_spells (desc : Descriptor) (a c : Dur) :
    (pairSymbol desc a c = .bit1 ↔ desc.threshUs ≤ a.toNat ∧ c.toNat < desc.threshUs) ∧
    (pairSymbol desc a c = .bit0 ↔ a.toNat < desc.threshUs ∧ desc.threshUs ≤ c.toNat) := by
  unfold pairSymbol halfClass
  by_cases h1 : a.toNat < desc.threshUs <;> by_cases h2 : c.toNat < desc.threshUs <;> simp [h1, h2] <;> omega

/-- The data entries of a frame spell `b` exactly if step 3 extracts `b` from them (R174). -/
theorem spellBits_pairSymbols (desc : Descriptor) :
    ∀ (b : List Bool) (data : List Dur), data.length = 2 * b.length →
      (spellBits (pairSymbols desc data) = .ok b ↔
        ∀ k, k < b.length →
          if b.getD k false = true then
            desc.threshUs ≤ (data.getD (2 * k) 0).toNat ∧ (data.getD (2 * k + 1) 0).toNat < desc.threshUs
          else
            (data.getD (2 * k) 0).toNat < desc.threshUs ∧ desc.threshUs ≤ (data.getD (2 * k + 1) 0).toNat)
  | [], data, h => by
    have : data = [] := by simpa using h
    subst this
    simp [pairSymbols, spellBits]
  | v :: b, data, h => by
    match data, h with
    | [], h => simp at h
    | [_], h => simp at h; omega
    | a :: c :: rest, h =>
      have hrest : rest.length = 2 * b.length := by simp at h; omega
      have ih := spellBits_pairSymbols desc b rest hrest
      have hp := pairSymbol_spells desc a c
      have hsplit : (∀ k, k < (v :: b).length →
          if (v :: b).getD k false = true then
            desc.threshUs ≤ ((a :: c :: rest).getD (2 * k) 0).toNat ∧
              ((a :: c :: rest).getD (2 * k + 1) 0).toNat < desc.threshUs
          else ((a :: c :: rest).getD (2 * k) 0).toNat < desc.threshUs ∧
              desc.threshUs ≤ ((a :: c :: rest).getD (2 * k + 1) 0).toNat) ↔
          (pairSymbol desc a c = if v then .bit1 else .bit0) ∧ spellBits (pairSymbols desc rest) = .ok b := by
        rw [ih]
        constructor
        · intro hk
          refine ⟨?_, fun k hkb => ?_⟩
          · have h0 := hk 0 (by simp)
            cases v
            · simpa using hp.2.2 (by simpa using h0)
            · simpa using hp.1.2 (by simpa using h0)
          · have h1 := hk (k + 1) (by simpa using hkb)
            have e1 : 2 * (k + 1) = 2 * k + 2 := by omega
            simpa [e1] using h1
        · rintro ⟨hsym, htail⟩ k hkb
          cases k with
          | zero =>
            cases v
            · simpa using hp.2.1 (by simpa using hsym)
            · simpa using hp.1.1 (by simpa using hsym)
          | succ k =>
            have h1 := htail k (by simpa using hkb)
            have e1 : 2 * (k + 1) = 2 * k + 2 := by omega
            simpa [e1] using h1
      rw [hsplit]
      cases hs : pairSymbol desc a c <;> cases v <;> cases hr : spellBits (pairSymbols desc rest) <;>
        simp [pairSymbols, spellBits, hs, hr, Except.map]

/-- A frame of whole pairs spells `b` exactly if `ExtractBits` gives `b` (R174). -/
theorem extractBits_eq_ok {desc : Descriptor} {frame : List Dur} {b : List Bool}
    (h : frame.length = 2 * b.length + 1) : extractBits desc frame = .ok b ↔ Spells desc frame b := by
  match frame, h with
  | [], h => simp at h
  | f0 :: data, h =>
    have hd : data.length = 2 * b.length := by simpa using h
    have := spellBits_pairSymbols desc b data hd
    unfold extractBits Spells
    rw [List.tail_cons, this]
    have e1 : ∀ k, (f0 :: data).getD (1 + 2 * k) 0 = data.getD (2 * k) 0 := by
      intro k; rw [Nat.add_comm]; simp
    have e2 : ∀ k, (f0 :: data).getD (2 + 2 * k) 0 = data.getD (2 * k + 1) 0 := by
      intro k; rw [show 2 + 2 * k = (2 * k + 1) + 1 by omega]; simp
    simp only [e1, e2]

/-- The bits extracted from a frame are as many as its pairs (R174). -/
theorem spellBits_length {desc : Descriptor} :
    ∀ {syms : List PairSymbol} {b : List Bool}, spellBits syms = .ok b → b.length = syms.length
  | [], b, h => by cases h; rfl
  | .bad :: _, b, h => by cases h
  | .bit0 :: rest, b, h => by
    cases hr : spellBits rest with
    | error e => simp [spellBits, hr, Except.map] at h
    | ok b' =>
      simp only [spellBits, hr, Except.map, Except.ok.injEq] at h
      subst h
      simpa using spellBits_length (desc := desc) hr
  | .bit1 :: rest, b, h => by
    cases hr : spellBits rest with
    | error e => simp [spellBits, hr, Except.map] at h
    | ok b' =>
      simp only [spellBits, hr, Except.map, Except.ok.injEq] at h
      subst h
      simpa using spellBits_length (desc := desc) hr

theorem pairSymbols_length (desc : Descriptor) : ∀ data : List Dur, (pairSymbols desc data).length = data.length / 2
  | [] => rfl
  | [_] => by simp [pairSymbols]
  | _ :: _ :: rest => by
    simp only [pairSymbols, List.length_cons, pairSymbols_length desc rest]
    omega

/-- Only a frame passed through whole comes out as a GenericSignal (R170, R210). -/
theorem decodeFrame_generic {c : Config} {frame f : List Dur} (h : decodeFrame c frame = .genericSignal f) :
    f = frame := by
  have aux : ∀ l : List Descriptor, firstAccepted c frame l = .genericSignal f → f = frame := by
    intro l
    induction l with
    | nil => intro h; cases h; rfl
    | cons desc rest ih =>
      intro h
      unfold firstAccepted at h
      split at h
      · rename_i ev hev
        obtain ⟨-, -, b, -, hb⟩ := tryProtocol_eq_ok.1 hev
        exact absurd h (layoutFields_not_generic hb)
      · exact ih h
  exact aux _ h

/-- The event of a frame of known length is shown by its record (R149, R92). -/
theorem decodeFrame_shows (c : Config) (n : Nat) {frame : List Dur} (h : frame.length ≤ c.maxAccum) :
    (eventRecord c n (decodeFrame c frame)).Shows (decodeFrame c frame) :=
  eventRecord_shows c n _ (fun _ hf => decodeFrame_generic hf ▸ h)

end Sys2Proof.Machine
end

