-- ==== Sys2Proof/Laws/Decode.lean ====
section
/-!
SUPPORT. The fields of an encoded word, one lemma each, and the words put together again from their fields.
-/

namespace Sys2Proof

section Port
variable (rst vld : Bool) (dur : Dur)

theorem encodePort_rst : (encodePort rst vld dur).getLsbD 33 = rst := by
  unfold encodePort; simp

theorem encodePort_vld : (encodePort rst vld dur).getLsbD 32 = vld := by
  unfold encodePort; simp

theorem encodePort_dur : (encodePort rst vld dur).extractLsb' 0 32 = dur := by
  unfold encodePort
  ext i hi
  simp [show i < 34 by omega, show i < 33 by omega, hi]

theorem encodePort_of_fields (w : PortWord) :
    encodePort (w.getLsbD 33) (w.getLsbD 32) (w.extractLsb' 0 32) = w := by
  unfold encodePort
  ext i hi
  by_cases h1 : i < 32
  · simp [h1, show i < 33 by omega, BitVec.getLsbD_eq_getElem, hi]
  · by_cases h2 : i = 32
    · subst h2; simp
    · obtain rfl : i = 33 := by omega
      simp
end Port

section SwitchFrame
variable (chan btn : BitVec 10) (pwr : BitVec 4)

theorem encodeSwitchFrame_chan : (encodeSwitchFrame chan btn pwr).extractLsb' 14 10 = chan := by
  unfold encodeSwitchFrame
  ext i hi
  have h1 : btn.getLsbD (14 + i - 4) = false := BitVec.getLsbD_of_ge _ _ (by omega)
  have h2 : pwr.getLsbD (14 + i) = false := BitVec.getLsbD_of_ge _ _ (by omega)
  simp [show 14 + i < 24 by omega, h1, h2, BitVec.getLsbD_eq_getElem, hi]

theorem encodeSwitchFrame_btn : (encodeSwitchFrame chan btn pwr).extractLsb' 4 10 = btn := by
  unfold encodeSwitchFrame
  ext i hi
  simp [show 4 + i < 24 by omega, show 4 + i < 14 by omega, BitVec.getLsbD_eq_getElem, hi]

theorem encodeSwitchFrame_pwr : (encodeSwitchFrame chan btn pwr).extractLsb' 0 4 = pwr := by
  unfold encodeSwitchFrame
  ext i hi
  simp [show i < 24 by omega, show i < 14 by omega, hi]

theorem encodeSwitchFrame_of_fields (w : BitVec 24) :
    encodeSwitchFrame (w.extractLsb' 14 10) (w.extractLsb' 4 10) (w.extractLsb' 0 4) = w := by
  unfold encodeSwitchFrame
  ext i hi
  by_cases h1 : i < 4
  · simp [h1, show i < 14 by omega, hi, BitVec.getLsbD_eq_getElem]
  · by_cases h2 : i < 14
    · simp [h1, h2, hi, show i - 4 < 10 by omega, show 4 + (i - 4) = i by omega, BitVec.getLsbD_eq_getElem]
    · simp [h1, h2, hi, show ¬ (i - 4 < 10) by omega, show i - 14 < 10 by omega, show 14 + (i - 14) = i by omega,
        BitVec.getLsbD_eq_getElem]
end SwitchFrame

section ThermoFrame
variable (id : BitVec 8) (sign : Bool) (mag : BitVec 7) (batt tenths : BitVec 4)

theorem encodeThermoFrame_id : (encodeThermoFrame id sign mag batt tenths).extractLsb' 16 8 = id := by
  unfold encodeThermoFrame
  ext i hi
  have h1 : mag.getLsbD (16 + i - 8) = false := BitVec.getLsbD_of_ge _ _ (by omega)
  have h2 : batt.getLsbD (16 + i - 4) = false := BitVec.getLsbD_of_ge _ _ (by omega)
  have h3 : tenths.getLsbD (16 + i) = false := BitVec.getLsbD_of_ge _ _ (by omega)
  simp [show 16 + i < 24 by omega, show ¬ (16 + i < 15) by omega, show ¬ (16 + i < 8) by omega,
    show ¬ (16 + i < 4) by omega, show 16 + i - 15 ≠ 0 by omega, h1, h2, h3, BitVec.getLsbD_eq_getElem, hi]

theorem encodeThermoFrame_sign : (encodeThermoFrame id sign mag batt tenths).getLsbD 15 = sign := by
  unfold encodeThermoFrame; simp

theorem encodeThermoFrame_mag : (encodeThermoFrame id sign mag batt tenths).extractLsb' 8 7 = mag := by
  unfold encodeThermoFrame
  ext i hi
  have h2 : batt.getLsbD (8 + i - 4) = false := BitVec.getLsbD_of_ge _ _ (by omega)
  have h3 : tenths.getLsbD (8 + i) = false := BitVec.getLsbD_of_ge _ _ (by omega)
  simp [show 8 + i < 24 by omega, show 8 + i < 16 by omega, show 8 + i < 15 by omega, h2, h3,
    BitVec.getLsbD_eq_getElem, hi]

theorem encodeThermoFrame_batt : (encodeThermoFrame id sign mag batt tenths).extractLsb' 4 4 = batt := by
  unfold encodeThermoFrame
  ext i hi
  simp [show 4 + i < 24 by omega, show 4 + i < 16 by omega, show 4 + i < 15 by omega, show 4 + i < 8 by omega,
    BitVec.getLsbD_eq_getElem, hi]

theorem encodeThermoFrame_tenths : (encodeThermoFrame id sign mag batt tenths).extractLsb' 0 4 = tenths := by
  unfold encodeThermoFrame
  ext i hi
  simp [show i < 24 by omega, show i < 16 by omega, show i < 15 by omega, show i < 8 by omega, hi]

theorem encodeThermoFrame_of_fields (w : BitVec 24) :
    encodeThermoFrame (w.extractLsb' 16 8) (w.getLsbD 15) (w.extractLsb' 8 7) (w.extractLsb' 4 4) (w.extractLsb' 0 4)
      = w := by
  unfold encodeThermoFrame
  ext i hi
  by_cases h1 : i < 4
  · simp [h1, show i < 15 by omega, show i < 16 by omega, show i < 8 by omega, hi, BitVec.getLsbD_eq_getElem]
  · by_cases h2 : i < 8
    · simp [h1, h2, hi, show i < 15 by omega, show i < 16 by omega, show i - 4 < 4 by omega,
        show 4 + (i - 4) = i by omega, BitVec.getLsbD_eq_getElem]
    · by_cases h3 : i < 15
      · simp [h1, h2, h3, hi, show i < 16 by omega, show ¬ i - 4 < 4 by omega, show i - 8 < 7 by omega,
          show 8 + (i - 8) = i by omega, BitVec.getLsbD_eq_getElem]
      · by_cases h4 : i = 15
        · subst h4; simp
        · simp [h1, h2, h3, hi, show ¬ i < 16 by omega, show ¬ i - 4 < 4 by omega, show ¬ i - 8 < 7 by omega,
            show i - 15 ≠ 0 by omega, show i - 16 < 8 by omega, show 16 + (i - 16) = i by omega,
            BitVec.getLsbD_eq_getElem]
end ThermoFrame

end Sys2Proof
end

