-- ==== Sys2Proof/Laws/Operands.lean ====
section
/-!
SUPPORT. Bit strings: a code is determined by its string, its value is its string's value, and an encoded word's
string is its fields' strings in reception order (R62, R86, R90).
-/

namespace Sys2Proof.Machine

@[simp] theorem bitsOf_length {n : Nat} (w : BitVec n) : (bitsOf w).length = n := by simp [bitsOf]

theorem bitsOf_injective {n : Nat} {v w : BitVec n} (h : bitsOf v = bitsOf w) : v = w := by
  apply BitVec.eq_of_getMsbD_eq
  intro i hi
  have hg := congrArg (fun l => l[i]?) h
  simpa only [bitsOf, List.getElem?_map, List.getElem?_range hi, Option.map_some, Option.some_inj] using hg

/-- A frame of 49 entries or more spells the whole string (R86, R90). -/
theorem layoutBits_of_length {b : List Bool} (h : 24 ≤ b.length) : layoutBits b = b := by
  simp [layoutBits, Nat.sub_eq_zero_of_le h]

/-- A layout reads at least 24 bits, and the bits a short frame spells are the first of them. -/
theorem layoutBits_length (b : List Bool) : 24 ≤ (layoutBits b).length := by
  simp [layoutBits]; omega

theorem layoutBits_take (b : List Bool) : (layoutBits b).take b.length = b := by
  simp [layoutBits]

theorem bitsValue_bitsOf_eight (w : BitVec 8) : bitsValue (bitsOf w) = w.toNat := by revert w; decide

theorem bitsValue_bitsOf_seven (w : BitVec 7) : bitsValue (bitsOf w) = w.toNat := by revert w; decide

theorem bitsValue_bitsOf_four (w : BitVec 4) : bitsValue (bitsOf w) = w.toNat := by revert w; decide

theorem bitsOf_encodeSwitchFrame (chan btn : BitVec 10) (pwr : BitVec 4) :
    bitsOf (encodeSwitchFrame chan btn pwr) = bitsOf chan ++ bitsOf btn ++ bitsOf pwr := by
  simp [bitsOf, encodeSwitchFrame, List.range_succ, BitVec.getMsbD_eq_getLsbD]

theorem bitsOf_encodeThermoFrame (id : BitVec 8) (sign : Bool) (mag : BitVec 7) (batt tenths : BitVec 4) :
    bitsOf (encodeThermoFrame id sign mag batt tenths) = thermoString id sign mag batt tenths := by
  simp [bitsOf, encodeThermoFrame, thermoString, List.range_succ, BitVec.getMsbD_eq_getLsbD]

/-- Setting channel j of a mask sets bit j and no other (R92). -/
theorem setChannel_getLsbD :
    ∀ (ch : BitVec 5) (j : Fin 5) (on : Bool) (k : Fin 5),
      (setChannel ch j on).getLsbD k = if k = j then on else ch.getLsbD k := by decide

/-- The string of a button is the string of its code (R88). -/
theorem buttonBits_eq_bitsOf :
    buttonBits .a = bitsOf 0b0001010101#10 ∧ buttonBits .b = bitsOf 0b0100010101#10 ∧
      buttonBits .c = bitsOf 0b0101000101#10 ∧ buttonBits .d = bitsOf 0b0101010001#10 ∧
      buttonBits .e = bitsOf 0b0101010100#10 := by decide

end Sys2Proof.Machine
end

