-- ==== Sys2Proof/Laws/FieldCheck.lean ====
section
/-!
SUPPORT. The field rules, each described once: which codes a channel pair, the power field and the ID accept, and
where the fields of a 24-bit string lie (R86, R90, R200, R202, R204).
-/

namespace Sys2Proof.Machine

theorem channelState_eq_ok {c : Config} {p : List Bool} {on : Bool} :
    channelState c p = .ok on ↔ p = channelBits c.channelPolarity on := by
  unfold channelState
  cases h : c.channelPolarity <;> simp only <;> split <;> (try split) <;> cases on <;> simp_all [channelBits]

theorem switchPower_eq_ok {f : List Bool} {on : Bool} : switchPower f = .ok on ↔ f = powerBits on := by
  unfold switchPower
  split <;> (try split) <;> cases on <;> simp_all [powerBits]

theorem thermId_eq_ok {f : List Bool} (h : f ≠ List.replicate 8 true) :
    thermId f = .ok (BitVec.ofNat 8 (bitsValue f)) := if_neg h

theorem thermId_marker : thermId (List.replicate 8 true) = .error .idff := rfl

/-- A channel pair that begins with 1 is rejected at either polarity (R200). -/
theorem channelState_first_bit_one (c : Config) (v : Bool) : channelState c [true, v] = .error .chan := by
  unfold channelState
  cases c.channelPolarity <;> cases v <;> rfl

@[simp] theorem channelBits_length (p : ChannelPolarity) (on : Bool) : (channelBits p on).length = 2 := by
  cases p <;> cases on <;> rfl

@[simp] theorem channelString_length (p : ChannelPolarity) (mask : BitVec 5) : (channelString p mask).length = 10 := by
  simp [channelString]

@[simp] theorem buttonBits_length (x : Button) : (buttonBits x).length = 10 := by cases x <;> rfl

@[simp] theorem powerBits_length (on : Bool) : (powerBits on).length = 4 := by cases on <;> rfl

@[simp] theorem switchString_length (p : ChannelPolarity) (mask : BitVec 5) (x : Button) (on : Bool) :
    (switchString p mask x on).length = 24 := by
  simp [switchString]

theorem bitSlice_length {b : List Bool} {i j : Nat} (h : j < b.length) (hij : i ≤ j) :
    (bitSlice b i j).length = j + 1 - i := by
  simp [bitSlice]; omega

/-- The button field of three adjoining fields of 10, 10 and 4 bits. -/
theorem bitSlice_button {u v w : List Bool} (hu : u.length = 10) (hv : v.length = 10) :
    bitSlice (u ++ v ++ w) 10 19 = v := by
  unfold bitSlice
  rw [List.append_assoc, List.drop_left' hu, List.take_left' hv]

/-- The power field of three adjoining fields of 10, 10 and 4 bits. -/
theorem bitSlice_power {u v w : List Bool} (hu : u.length = 10) (hv : v.length = 10) (hw : w.length = 4) :
    bitSlice (u ++ v ++ w) 20 23 = w := by
  unfold bitSlice
  rw [List.drop_left' (by simp [hu, hv])]
  exact List.take_of_length_le (by simp [hw])

/-- Unpacking the packed channels gives them back (R92). -/
theorem packChannels_getLsbD :
    ∀ a b c d e : Bool,
      (packChannels a b c d e).getLsbD 0 = a ∧ (packChannels a b c d e).getLsbD 1 = b ∧
      (packChannels a b c d e).getLsbD 2 = c ∧ (packChannels a b c d e).getLsbD 3 = d ∧
      (packChannels a b c d e).getLsbD 4 = e := by decide

/-- Packing the channels of a mask gives the mask back (R92). -/
theorem packChannels_of_getLsbD :
    ∀ mask : BitVec 5,
      packChannels (mask.getLsbD 0) (mask.getLsbD 1) (mask.getLsbD 2) (mask.getLsbD 3) (mask.getLsbD 4) = mask := by
  decide

/-- The channels of a command's layout decode to its mask (R200). -/
theorem switchChannels_channelString (c : Config) (mask : BitVec 5) (rest : List Bool) :
    switchChannels c (channelString c.channelPolarity mask ++ rest) = .ok mask := by
  have pair : ∀ v, ∃ a b, channelBits c.channelPolarity v = [a, b] ∧ channelState c [a, b] = .ok v := by
    intro v
    have h := channelState_eq_ok (c := c) (p := channelBits c.channelPolarity v) (on := v)
    cases hp : c.channelPolarity <;> cases v <;> exact ⟨_, _, rfl, by simpa [hp, channelBits] using h⟩
  unfold channelString
  obtain ⟨a0, b0, e0, h0⟩ := pair (mask.getLsbD 0)
  obtain ⟨a1, b1, e1, h1⟩ := pair (mask.getLsbD 1)
  obtain ⟨a2, b2, e2, h2⟩ := pair (mask.getLsbD 2)
  obtain ⟨a3, b3, e3, h3⟩ := pair (mask.getLsbD 3)
  obtain ⟨a4, b4, e4, h4⟩ := pair (mask.getLsbD 4)
  rw [e0, e1, e2, e3, e4]
  simpa [switchChannels, bind, Except.bind, bitSlice, h0, h1, h2, h3, h4, pure, Except.pure] using
    packChannels_of_getLsbD mask

end Sys2Proof.Machine
end

