-- ==== Sys2Proof/Laws/PerInstr.lean ====
section
/-!
SUPPORT. The per-instruction family `WordFormat`: the word of an instruction has the format its row of the opcode
table names (R80, R99).
-/

namespace Sys2Proof.Laws.WordFormat

/-- The formats of the opcode table's rows. -/
inductive Format where
  | port | halfpair | sw24 | th24 | event
  deriving DecidableEq, Repr

/-- The format a word is of. -/
def ofWord : InputWord → Format
  | .port _ => .port
  | .halfPair _ => .halfpair
  | .channel _ _ | .button _ | .power _ | .switchFrame _ => .sw24
  | .thermoFrame _ | .battery _ => .th24
  | .eventKind _ => .event

/-- The "format" column of the table. -/
def ofRow : Instr → Format
  | .reset _ _ | .pulse _ | .nop _ => .port
  | .hpBit0 | .hpBit1 | .hpIllegalSS | .hpIllegalLL => .halfpair
  | .swFrame _ _ _ | .swChOn _ | .swChOff _ | .swChIllegal10 _ | .swChIllegal11 _ | .swBtnA | .swBtnB | .swBtnC
  | .swBtnD | .swBtnE | .swBtnIllegal _ | .swPwrOn | .swPwrOff | .swPwrIllegal _ => .sw24
  | .thFrame _ _ _ _ _ | .thIdReserved _ _ _ _ | .thBattOk | .thBattLow _ => .th24
  | .evSwitch | .evThermo | .evGeneric | .evReserved => .event

/-- The instruction's word is of its row's format. -/
def Statement (i : Instr) : Prop := ofWord (encode i) = ofRow i

theorem reset (vld : Bool) (dur : Dur) : Statement (.reset vld dur) := rfl
theorem pulse (dur : Dur) : Statement (.pulse dur) := rfl
theorem nop (dur : Dur) : Statement (.nop dur) := rfl
theorem hpBit0 : Statement .hpBit0 := rfl
theorem hpBit1 : Statement .hpBit1 := rfl
theorem hpIllegalSS : Statement .hpIllegalSS := rfl
theorem hpIllegalLL : Statement .hpIllegalLL := rfl
theorem swFrame (chan btn : BitVec 10) (pwr : BitVec 4) : Statement (.swFrame chan btn pwr) := rfl
theorem swChOn (j : Fin 5) : Statement (.swChOn j) := rfl
theorem swChOff (j : Fin 5) : Statement (.swChOff j) := rfl
theorem swChIllegal10 (j : Fin 5) : Statement (.swChIllegal10 j) := rfl
theorem swChIllegal11 (j : Fin 5) : Statement (.swChIllegal11 j) := rfl
theorem swBtnA : Statement .swBtnA := rfl
theorem swBtnB : Statement .swBtnB := rfl
theorem swBtnC : Statement .swBtnC := rfl
theorem swBtnD : Statement .swBtnD := rfl
theorem swBtnE : Statement .swBtnE := rfl
theorem swBtnIllegal (code : BitVec 10) : Statement (.swBtnIllegal code) := rfl
theorem swPwrOn : Statement .swPwrOn := rfl
theorem swPwrOff : Statement .swPwrOff := rfl
theorem swPwrIllegal (code : BitVec 4) : Statement (.swPwrIllegal code) := rfl
theorem thFrame (id : BitVec 8) (sign : Bool) (mag : BitVec 7) (batt tenths : BitVec 4) : Statement (.thFrame id sign mag batt tenths) := rfl
theorem thIdReserved (sign : Bool) (mag : BitVec 7) (batt tenths : BitVec 4) : Statement (.thIdReserved sign mag batt tenths) := rfl
theorem thBattOk : Statement .thBattOk := rfl
theorem thBattLow (code : BitVec 4) : Statement (.thBattLow code) := rfl
theorem evSwitch : Statement .evSwitch := rfl
theorem evThermo : Statement .evThermo := rfl
theorem evGeneric : Statement .evGeneric := rfl
theorem evReserved : Statement .evReserved := rfl

end Sys2Proof.Laws.WordFormat
end

