-- ==== Sys2Proof/Laws/Runs.lean ====
section
/-!
SUPPORT. Runs of instructions: how they compose, and what a run of data pulses does in IDLE and during an
accumulation (R142, R143, R147).
-/

namespace Sys2Proof.Machine

theorem runInstrs_append {l m : List Instr} {s u : State} (h : runInstrs l s = .next u) :
    runInstrs (l ++ m) s = runInstrs m u := by
  induction l generalizing s with
  | nil => cases h; rfl
  | cons i l ih =>
    simp only [List.cons_append, runInstrs] at h ⊢
    cases hi : exec i s with
    | next t => rw [hi] at h; exact ih h
    | fault r => rw [hi] at h; cases h
    | refused r => rw [hi] at h; cases h

theorem runInstrs_cons {i : Instr} {l : List Instr} {s u : State} (h : exec i s = .next u) :
    runInstrs (i :: l) s = runInstrs l u := by
  simp only [runInstrs, h]

theorem runInstrs_single {i : Instr} {s u : State} (h : exec i s = .next u) : runInstrs [i] s = .next u := by
  rw [runInstrs_cons h]; rfl

/-- A word whose step goes on adds that step's record to those of the rest (R253). -/
theorem outputs_cons {w : InputWord} {rest : List InputWord} {s t : State} {outs : List OutRecord}
    (h : step { s with input := w :: rest } = .next t) (ho : outputs rest t = .next outs) :
    outputs (w :: rest) s = .next (t.out :: outs) := by
  simp only [outputs, h, ho]

/-- Writing just above the accumulated frame appends to it. -/
theorem bufFrame_append {s : State} (d : Dur) (h : s.cnt < s.buf.length) :
    (s.buf.set s.cnt d).take (s.cnt + 1) = bufFrame s ++ [d] := by
  rw [List.take_add_one, List.take_set_of_le (Nat.le_refl _)]
  simp [bufFrame, h]

/-- During an accumulation that has room, data pulses are appended in order, and nothing is emitted. -/
theorem run_data_busy :
    ∀ (data : List Dur) (s : State), s.st = .accum ∨ s.st = .repeatPending → s.buf.length = s.cfg.maxAccum →
      (∀ x ∈ data, ¬ s.cfg.longMinUs < x.toNat) → s.cnt + data.length ≤ s.cfg.maxAccum →
      ∃ t, runInstrs (data.map .pulse) s = .next t ∧ t.st = s.st ∧ t.cnt = s.cnt + data.length ∧
        bufFrame t = bufFrame s ++ data ∧ t.fbuf = s.fbuf ∧ t.flen = s.flen ∧ t.cfg = s.cfg ∧
        t.buf.length = s.buf.length ∧ (data ≠ [] ∨ s.out.evValid = false → t.out.evValid = false)
  | [], s, _, _, _, _ => ⟨s, rfl, rfl, rfl, by simp, rfl, rfl, rfl, rfl, fun h => h.resolve_left (by simp)⟩
  | x :: data, s, hst, hb, hd, hc => by
    simp only [List.length_cons] at hc
    have hx : ¬ s.cfg.longMinUs < x.toNat := hd x (by simp)
    have he : exec (.pulse x) s = .next (appendPulse x (clearEvent s)) := by
      rcases hst with hst | hst
      · exact exec_pulse_append hst hx (by omega)
      · exact exec_pulse_repeatAppend hst hx (by omega)
    obtain ⟨t, ht, h1, h2, h3, h4, h5, h6, h7, h8⟩ := run_data_busy data (appendPulse x (clearEvent s)) (by simpa using hst)
      (by simpa using hb) (fun y hy => hd y (by simp [hy])) (by show s.cnt + 1 + data.length ≤ s.cfg.maxAccum; omega)
    refine ⟨t, ?_, by simpa using h1, ?_, ?_, by simpa using h4, by simpa using h5, by simpa using h6,
      by simpa using h7, fun _ => h8 (.inr (by simp))⟩
    · rw [List.map_cons, runInstrs_cons he]; exact ht
    · rw [h2, List.length_cons]; show s.cnt + 1 + data.length = _; omega
    · rw [h3]
      have : bufFrame (appendPulse x (clearEvent s)) = bufFrame s ++ [x] := bufFrame_append (s := s) x (by omega)
      rw [this]; simp

/-- In IDLE data pulses are ignored (R142). -/
theorem run_data_idle :
    ∀ (data : List Dur) (s : State), s.st = .idle → (∀ x ∈ data, ¬ s.cfg.longMinUs < x.toNat) →
      ∃ t, runInstrs (data.map .pulse) s = .next t ∧ t.st = .idle ∧ t.cnt = s.cnt ∧ t.buf = s.buf ∧
        t.fbuf = s.fbuf ∧ t.flen = s.flen ∧ t.cfg = s.cfg ∧ (data ≠ [] → t.out.evValid = false)
  | [], s, hst, _ => ⟨s, rfl, hst, rfl, rfl, rfl, rfl, rfl, fun h => absurd rfl h⟩
  | x :: data, s, hst, hd => by
    have hx : ¬ s.cfg.longMinUs < x.toNat := hd x (by simp)
    obtain ⟨t, ht, h1, h2, h3, h4, h5, h6, h7⟩ := run_data_idle data (clearEvent s) (by simpa using hst)
      (fun y hy => by simpa using hd y (by simp [hy]))
    refine ⟨t, ?_, h1, by simpa using h2, by simpa using h3, by simpa using h4, by simpa using h5, by simpa using h6, fun _ => ?_⟩
    · rw [List.map_cons, runInstrs_cons (exec_pulse_ignored hst hx)]; exact ht
    · cases data with
      | nil => cases ht; rfl
      | cons => exact h7 (by simp)

end Sys2Proof.Machine
end

