-- ==== Sys2Proof/Tests/Slice0.lean ====
section
/-!
SUPPORT. Tests on fixed values, each expected result taken from spec/ (the source is named in its comment), and for
every statement with hypotheses a theorem `test_witness_<statement>` that a concrete state and operands meet them.
-/

namespace Sys2Proof.Machine.Test

/-! ### Helpers -/

/-- The state an outcome goes on with. -/
def after : Host.Outcome State Fault Refusal → Option State
  | .next t => some t
  | .fault _ => none
  | .refused _ => none

/-- The event bits of a run's records, and how many events it emitted. -/
def eventBits : Host.Outcome (List OutRecord) Fault Refusal → Option (List Bool × Nat)
  | .next outs => some (outs.map (·.evValid), (emitted outs).length)
  | .fault _ => none
  | .refused _ => none

/-- `(st, cnt, buf[0], flen, ev_valid)`, as 95_test_vectors.md L2.2 writes a state, with the event bit. -/
def view (t : State) : FramingState × Nat × Dur × Nat × Bool :=
  (t.st, t.cnt, t.buf.getD 0 0, t.flen, t.out.evValid)

/-- The switch event of a record: `(kind, sw_ch, sw_btn, sw_pwr)`. -/
def switchView (t : State) : EventKind × BitVec 5 × BitVec 3 × Bool :=
  (t.out.kind, t.out.swCh, t.out.swBtn, t.out.swPwr)

/-- `[sync] ++ BITS u b` (R98): bit 0 is `u, 3u`, bit 1 is `3u, u`. -/
def frameOf (sync u : Nat) (b : List Bool) : List Dur :=
  BitVec.ofNat 32 sync ::
    b.flatMap (fun v => if v then [BitVec.ofNat 32 (3 * u), BitVec.ofNat 32 u] else [BitVec.ofNat 32 u, BitVec.ofNat 32 (3 * u)])

/-- The bits of the P1 frame: channel 0 on, button B, power on. -/
def p1Bits : List Bool := bitsOf 0b000101010101000101010001#24

/-- The P1 frame, frame S of 95_test_vectors.md L2.3. -/
def p1Frame : List Dur := frameOf 10850 350 p1Bits

/-- The P2 frame: -23.7 degrees from sensor 0x5A. -/
def p2Frame : List Dur := frameOf 7905 255 (bitsOf 0b010110101001011100000111#24)

/-- The frame of Scenario 2 (95_test_vectors.md L1.2). -/
def idffBits : List Bool := bitsOf 0b111111110001010000000000#24

def idffFrame : List Dur := frameOf 7905 255 idffBits

/-- A buffer of 65 entries that begins with these. -/
def bufferOf (l : List Dur) : List Dur := l ++ List.replicate (65 - l.length) 350

/-- An accumulation with `cnt` entries, in SINGLE_SHOT mode. -/
def accumulated (l : List Dur) (cnt : Nat) : State :=
  { State.reset with st := .accum, cnt := cnt, buf := bufferOf l }

/-- The hardware in DOUBLE mode. -/
def doubleConfig : Config := { Config.hardware with confirmMode := .double }

/-- A repeat with `cnt` entries of the P1 frame, synced at 10900, in DOUBLE mode. -/
def pending (cnt : Nat) : State :=
  { State.reset with
    st := .repeatPending, cnt := cnt, buf := bufferOf (10900 :: p1Frame.tail), fbuf := bufferOf p1Frame, flen := 49,
    cfg := doubleConfig }

/-! ### Well-formedness: an ill-formed term for each check -/

/-- R88: the code of button B is no illegal button code. -/
theorem test_wellFormed_refuses_legal_button : ¬ WellFormed (.swBtnIllegal 0b0100010101) := by decide

/-- R89: the code of power on is no illegal power code. -/
theorem test_wellFormed_refuses_legal_power : ¬ WellFormed (.swPwrIllegal 0b0001) := by decide

/-- R91: 0xFF is no sensor ID. -/
theorem test_wellFormed_refuses_reserved_id : ¬ WellFormed (.thFrame 0xFF false 20 0 0) := by decide

/-- R90: the code 0000 is battery OK. -/
theorem test_wellFormed_refuses_battery_ok : ¬ WellFormed (.thBattLow 0b0000) := by decide

theorem test_wellFormed_accepts :
    WellFormed (.swBtnIllegal 0b0101010101) ∧ WellFormed (.swPwrIllegal 0b0101) ∧
      WellFormed (.thFrame 0xFE false 20 0 0) ∧ WellFormed (.thBattLow 0b0001) := by decide

/-! ### Decoding: every constructor by a word written out from 30_encoding.md -/

/-- R82, R97, and vector A20 of 95_test_vectors.md. -/
theorem test_decode_port :
    decode (.port 0x200000000) = .reset false 0 ∧ decode (.port 0x300002A94) = .reset true 10900 ∧
      decode (.port 0x100002A62) = .pulse 10850 ∧ decode (.port 0x1FFFFFFFF) = .pulse 4294967295 ∧
      decode (.port 0x00000015E) = .nop 350 := by decide

/-- R85: S is 0 and L is 1, first half first. -/
theorem test_decode_halfPair :
    decode (.halfPair 0b01) = .hpBit0 ∧ decode (.halfPair 0b10) = .hpBit1 ∧
      decode (.halfPair 0b00) = .hpIllegalSS ∧ decode (.halfPair 0b11) = .hpIllegalLL := by decide

/-- R87. -/
theorem test_decode_channel :
    decode (.channel 0 0b00) = .swChOn 0 ∧ decode (.channel 1 0b01) = .swChOff 1 ∧
      decode (.channel 2 0b10) = .swChIllegal10 2 ∧ decode (.channel 4 0b11) = .swChIllegal11 4 := by decide

/-- R88. -/
theorem test_decode_button :
    decode (.button 0b0001010101) = .swBtnA ∧ decode (.button 0b0100010101) = .swBtnB ∧
      decode (.button 0b0101000101) = .swBtnC ∧ decode (.button 0b0101010001) = .swBtnD ∧
      decode (.button 0b0101010100) = .swBtnE ∧ decode (.button 0b0101010101) = .swBtnIllegal 0b0101010101 := by decide

/-- R89. -/
theorem test_decode_power :
    decode (.power 0b0001) = .swPwrOn ∧ decode (.power 0b0100) = .swPwrOff ∧
      decode (.power 0b0101) = .swPwrIllegal 0b0101 := by decide

/-- R86, R90, R91: the examples of R203 and R209, and Scenario 2. -/
theorem test_decode_frames :
    decode (.switchFrame 0b000101010101000101010001) = .swFrame 0b0001010101 0b0100010101 0b0001 ∧
      decode (.thermoFrame 0b010110101001011100000111) = .thFrame 0x5A true 23 0 7 ∧
      decode (.thermoFrame 0b111111110001010000000000) = .thIdReserved false 20 0 0 := by decide

/-- R90. -/
theorem test_decode_battery :
    decode (.battery 0b0000) = .thBattOk ∧ decode (.battery 0b1000) = .thBattLow 0b1000 := by decide

/-- R92, R93. -/
theorem test_decode_eventKind :
    decode (.eventKind 0) = .evSwitch ∧ decode (.eventKind 1) = .evThermo ∧ decode (.eventKind 2) = .evGeneric ∧
      decode (.eventKind 3) = .evReserved := by decide

/-- The opcode table's bare patterns (log 13). -/
theorem test_decodeTableWord :
    decodeTableWord 40 0x100002A62 = some (.pulse 10850) ∧ decodeTableWord 8 0b01 = some .hpBit0 ∧
      decodeTableWord 8 0b0100 = some .swPwrOff ∧ decodeTableWord 16 0b0101010001 = some .swBtnD ∧
      decodeTableWord 24 0xFF1400 = some (.thIdReserved false 20 0 0) ∧ decodeTableWord 40 (2 ^ 34) = none := by decide

/-! ### The matcher (95_test_vectors.md L2.1) -/

/-- M1 to M3. -/
theorem test_isLong :
    isLong Config.hardware 5000 = false ∧ isLong Config.hardware 5001 = true ∧ isLong Config.hardware 0 = false ∧
      isLong Config.hardware 4294967295 = true := by decide

/-- M4 to M6, and the examples of R121. -/
theorem test_repeatMatch :
    repeatMatch Config.hardware 11050 10850 = true ∧ repeatMatch Config.hardware 11051 10850 = false ∧
      repeatMatch Config.hardware 10650 10850 = true ∧ absDiff 10900 10850 = 50 ∧ absDiff 10600 10850 = 250 := by decide

/-- M7 to M15. -/
theorem test_syncInRange :
    [9299, 9300, 12430, 12431].map (fun s => syncInRange Config.hardware.switchRow
        (delayOf Config.hardware.switchRow s)) = [false, true, true, false] ∧
      [7749, 7750, 8090, 8091].map (fun s => syncInRange Config.hardware.thermARow
        (delayOf Config.hardware.thermARow s)) = [false, true, true, false] ∧
      [10850, 10880, 10881].map (delayOf Config.hardware.switchRow) = [350, 350, 351] := by decide

/-- M16 to M18, and the corner of R127. -/
theorem test_pairSymbol :
    halfClass Config.hardware.switchRow 699 = .short ∧ halfClass Config.hardware.switchRow 700 = .long ∧
      halfClass Config.hardware.thermARow 509 = .short ∧ halfClass Config.hardware.thermARow 510 = .long ∧
      pairSymbol Config.hardware.switchRow 350 1050 = .bit0 ∧ pairSymbol Config.hardware.switchRow 1050 350 = .bit1 ∧
      pairSymbol Config.hardware.switchRow 350 350 = .bad ∧ pairSymbol Config.hardware.switchRow 1050 1050 = .bad ∧
      pairSymbol Config.hardware.switchRow 350 700 = .bit0 := by decide

/-- R42: the hardware's configuration is legal, the source's literal limit of 50 is not (90_conflicts.md C1), and with
the length 65 left out it is. -/
theorem test_configLegal :
    configLegal Config.hardware = true ∧ configLegal { Config.hardware with maxAccum := 50 } = false ∧
      configLegal { Config.hardware with maxAccum := 50, frameLengths := [49] } = true := by decide

/-- R42 item 3: overlapping sync windows are refused, and so are overlapping delay ranges whose windows are disjoint
because the divisors differ. -/
theorem test_configLegal_overlap :
    configLegal { Config.hardware with
      thermBRow := { Config.hardware.thermBRow with syncMax := 300 } } = false ∧
    configLegal { Config.hardware with
      thermBRow := { Config.hardware.thermBRow with syncDivisor := 10, syncMin := 350, syncMax := 360 } } = false := by
  decide

/-- R42 sets no other bound on the lengths or on LONG_MIN_US (93_implementation_defined.md section 1). -/
theorem test_configLegal_other_revisions :
    configLegal { Config.hardware with
      longMinUs := 2 ^ 33, frameLengths := [33, 49, 99], maxAccum := 99,
      thermBRow := { Config.hardware.thermBRow with expectedLength := 33 } } = true := by decide

/-! ### PULSE, RESET and NOP (95_test_vectors.md L2.2) -/

/-- A1 to A3, A21. -/
theorem test_pulse_idle :
    ([350, 5000, 5001, 4294967295].map fun d => (after (exec (.pulse d) State.reset)).map view) =
      [some (.idle, 0, 0, 0, false), some (.idle, 0, 0, 0, false), some (.accum, 1, 5001, 0, false),
        some (.accum, 1, 4294967295, 0, false)] := by decide

/-- A4, A6, A8 to A10, A12, A13. -/
theorem test_pulse_accum :
    ([(1, 350), (1, 10850), (49, 11051), (48, 10850), (50, 10850), (64, 350), (65, 350)].map fun p =>
        (after (exec (.pulse p.2) (accumulated p1Frame p.1))).map view) =
      [some (.accum, 2, 10850, 0, false), some (.accum, 1, 10850, 0, false), some (.accum, 1, 11051, 0, false),
        some (.accum, 1, 10850, 0, false), some (.accum, 1, 10850, 0, false), some (.accum, 65, 10850, 0, false),
        some (.idle, 0, 10850, 0, false)] := by decide

/-- A7 and vector B1: the P1 frame is emitted at a difference of exactly 200. -/
theorem test_pulse_emits :
    (after (exec (.pulse 11050) (accumulated p1Frame 49))).map view = some (.idle, 0, 10850, 0, true) ∧
      (after (exec (.pulse 11050) (accumulated p1Frame 49))).map switchView = some (.switch, 0b00001, 1, true) := by
  decide

/-- A11, P6: a 65-entry frame is a GenericSignal of all its entries. -/
theorem test_pulse_emits_generic :
    let o := after (exec (.pulse 10850) (accumulated (10850 :: List.replicate 64 350) 65))
    o.map view = some (.idle, 0, 10850, 0, true) ∧ o.map (·.out.kind) = some .generic ∧
      o.map (·.out.gLen) = some 65 ∧ o.map (·.out.gFrame) = some (10850 :: List.replicate 64 350) := by decide

/-- A14: in DOUBLE mode the first frame is held. -/
theorem test_pulse_holds :
    let o := after (exec (.pulse 10900) { accumulated p1Frame 49 with cfg := doubleConfig })
    o.map view = some (.repeatPending, 1, 10900, 49, false) ∧ o.map (·.fbuf.take 49) = some p1Frame := by decide

/-- A15 to A18. -/
theorem test_pulse_repeatPending :
    ([(49, 10880), (49, 11101), (30, 10900), (65, 350)].map fun p =>
        (after (exec (.pulse p.2) (pending p.1))).map view) =
      [some (.idle, 0, 10900, 0, true), some (.accum, 1, 11101, 0, false), some (.accum, 1, 10900, 0, false),
        some (.idle, 0, 10900, 0, false)] := by decide

/-- A19, A20: RESET discards the accumulation, whatever the word's other fields. -/
theorem test_reset :
    ([exec (.reset false 0) (accumulated p1Frame 30), exec (.reset true 10900) (accumulated p1Frame 49),
        exec (.reset false 0) (pending 30)].map fun o => (after o).map view) =
      [some (.idle, 0, 10850, 0, false), some (.idle, 0, 10850, 0, false), some (.idle, 0, 10900, 0, false)] := by decide

/-- A5. -/
theorem test_nop :
    (after (exec (.nop 0) (accumulated p1Frame 10))).map view = some (.accum, 10, 10850, 0, false) := by decide

/-- R31: a state that holds 3 is faulted. -/
theorem test_code3_faults :
    after (exec (.pulse 350) { State.reset with st := .code3 }) = none ∧
      after (step { State.reset with st := .code3 }) = none := by decide

/-! ### The classifier (95_test_vectors.md L2.3 to L2.5) -/

/-- B1 to B4 and B7. -/
theorem test_decodeFrame_switch :
    decodeFrame Config.hardware p1Frame = .switchCommand 0b00001 .b true ∧
      decodeFrame Config.hardware (p1Frame.set 1 699) = .switchCommand 0b00001 .b true ∧
      decodeFrame Config.hardware (p1Frame.set 1 700) = .genericSignal (p1Frame.set 1 700) ∧
      decodeFrame Config.hardware (p1Frame.set 47 350) = .genericSignal (p1Frame.set 47 350) ∧
      decodeFrame Config.hardware (p1Frame.set 0 12430) = .switchCommand 0b00001 .b true := by decide

/-- B6. -/
theorem test_decodeFrame_below_window :
    decodeFrame Config.hardware (p1Frame.set 0 9299) = .genericSignal (p1Frame.set 0 9299) := by decide

/-- P2, and the value -237 of R208. -/
theorem test_decodeFrame_thermo :
    decodeFrame Config.hardware p2Frame = .thermometerReading 0x5A true 23 7 false ∧
      thermValue true 23 7 = 0xFF13 ∧ thermValue false 127 15 = 0x0505 ∧ thermValue true 127 15 = 0xFAFB ∧
      thermValue true 0 0 = 0 := by decide

/-- L1.2, Scenario 2. -/
theorem test_decodeFrame_reserved_id :
    decodeFrame Config.hardware idffFrame = .genericSignal idffFrame ∧
      tryProtocol Config.hardware Config.hardware.thermARow idffFrame = .error .idff := by decide

/-- L1.1 and S15, S16: Scenario 1 holds at ON_IS_01, and its channels are the inverse at ON_IS_00. -/
theorem test_channel_polarity :
    switchFields { Config.hardware with channelPolarity := .onIs01 } (bitsOf 0b010000000001000101010001#24) =
        .ok (.switchCommand 0b00001 .b true) ∧
      switchFields Config.hardware (bitsOf 0b010000000001000101010001#24) = .ok (.switchCommand 0b11110 .b true) := by
  decide

/-- S1, S3, S4, S6. -/
theorem test_switchFields :
    switchFields Config.hardware (bitsOf 0b010101010100010101010001#24) = .ok (.switchCommand 0 .a true) ∧
      switchFields Config.hardware (bitsOf 0b010101010101010001010001#24) = .ok (.switchCommand 0 .c true) ∧
      switchFields Config.hardware (bitsOf 0b010101010101010100010001#24) = .ok (.switchCommand 0 .d true) ∧
      switchFields Config.hardware (bitsOf 0b000000000001010101000100#24) = .ok (.switchCommand 0b11111 .e false) := by
  decide

/-- S8, S10, S11, S13. -/
theorem test_switchFields_rejects :
    switchFields Config.hardware (bitsOf 0b100101010101000101010001#24) = .error .chan ∧
      switchFields Config.hardware (bitsOf 0b000000000001010101010001#24) = .error .btn ∧
      switchFields Config.hardware (bitsOf 0b000000000000000101010001#24) = .error .btn ∧
      switchFields Config.hardware (bitsOf 0b000000000000010101010000#24) = .error .pwr := by decide

/-! ### The classifier's codes as steps (log 3) -/

/-- A state whose classifier tries this descriptor of the registry, 0 for SWITCH, with these bits read. -/
def trying (turn : Nat) (b : List Bool) : State :=
  { accumulated p1Frame 49 with att := { Attempt.reset with turn := turn, bits := b } }

/-- R174: a bit symbol extends `b`. -/
theorem test_halfPair_bits :
    (after (exec .hpBit0 (trying 0 [true]))).map (·.att.bits) = some [true, false] ∧
      (after (exec .hpBit1 (trying 0 [true]))).map (·.att.bits) = some [true, true] := by decide

/-- R175, R203: the last of the 24 symbols of the P1 frame gives its event. -/
theorem test_halfPair_completes :
    (after (exec .hpBit1 (trying 0 (p1Bits.take 23)))).map switchView = some (.switch, 0b00001, 1, true) ∧
      (after (exec .hpBit0 (trying 0 (p1Bits.take 23)))).map (·.att.turn) = some 1 := by decide

/-- R85, R170: a bad symbol rejects the attempt, and after THERM_B the frame is a GenericSignal. -/
theorem test_halfPair_illegal :
    (after (exec .hpIllegalSS (trying 0 [true]))).map (fun t => (t.att.turn, t.att.bits)) = some (1, []) ∧
      (after (exec .hpIllegalLL (trying 2 []))).map (·.out.gFrame.take 49) = some p1Frame := by decide

/-- R200: the four channel codes at ON_IS_00. -/
theorem test_channel_codes :
    (after (exec (.swChOn 3) State.reset)).map (·.att.ch) = some 0b01000 ∧
      (after (exec (.swChOff 0) { State.reset with att := { Attempt.reset with ch := 0b11111 } })).map (·.att.ch) =
        some 0b11110 ∧
      (after (exec (.swChIllegal10 4) State.reset)).map (·.att.turn) = some 1 ∧
      (after (exec (.swChIllegal11 4) State.reset)).map (·.att.turn) = some 1 := by decide

/-- R201. -/
theorem test_button_codes :
    ([exec .swBtnA State.reset, exec .swBtnB State.reset, exec .swBtnC State.reset, exec .swBtnD State.reset,
        exec .swBtnE State.reset].map fun o => (after o).map (·.att.btn)) =
      [some .a, some .b, some .c, some .d, some .e] ∧
      (after (exec (.swBtnIllegal 0b0000010101) State.reset)).map (·.att.turn) = some 1 := by decide

/-- R202. -/
theorem test_power_codes :
    (after (exec .swPwrOn State.reset)).map (·.att.pwr) = some true ∧
      (after (exec .swPwrOff { State.reset with att := { Attempt.reset with pwr := true } })).map (·.att.pwr) =
        some false ∧
      (after (exec (.swPwrIllegal 0b1000) State.reset)).map (·.att.turn) = some 1 := by decide

/-- The example of R203. -/
theorem test_switchFrame :
    (after (exec (.swFrame 0b0001010101 0b0100010101 0b0001) State.reset)).map switchView =
      some (.switch, 0b00001, 1, true) := by decide

/-- The example of R209. -/
theorem test_thermoFrame :
    let o := after (exec (.thFrame 0x5A true 23 0 7) State.reset)
    o.map (·.out.kind) = some .thermo ∧ o.map (·.out.thId) = some 0x5A ∧ o.map (·.out.thTemp) = some 0xFF13 ∧
      o.map (·.out.thBattLow) = some false := by decide

/-- R204: the reserved ID rejects. -/
theorem test_thermo_reserved_id :
    (after (exec (.thIdReserved false 20 0 0) (trying 1 []))).map (·.att.turn) = some 2 := by decide

/-- R206. -/
theorem test_battery_codes :
    (after (exec .thBattOk { State.reset with att := { Attempt.reset with battLow := true } })).map (·.att.battLow) =
        some false ∧
      (after (exec (.thBattLow 0b0001) State.reset)).map (·.att.battLow) = some true := by decide

/-- R92. -/
theorem test_event_kinds :
    (after (exec .evSwitch { State.reset with att := { Attempt.reset with ch := 5, btn := .e } })).map switchView =
        some (.switch, 5, 4, false) ∧
      (after (exec .evThermo { State.reset with att := { Attempt.reset with mag := 12, tenths := 5 } })).map
        (·.out.thTemp) = some 125 ∧
      (after (exec .evGeneric (accumulated p1Frame 49))).map (·.out.gLen) = some 49 := by decide

/-- R93. -/
theorem test_event_reserved : exec .evReserved State.reset = .fault .reservedEventKind := rfl

/-! ### The first step after reset -/

/-- The word placed by `withFetchWord` is the one the next step consumes. -/
theorem test_withFetchWord :
    (after (step (State.reset.withFetchWord 40 0x100002A62))).map view = some (.accum, 1, 10850, 0, false) ∧
      (after (step (State.reset.withFetchWord 40 0x100002A62))).map (·.input) = some [] := by decide

/-- R6: a port of 8 bits takes the low 8 bits of the field (log 17). -/
theorem test_durOperand :
    portOperand { Config.hardware with durW := 8 } (.pulse 0x12345) = .pulse 0x45 ∧
      portOperand Config.hardware (.pulse 0xFFFFFFFF) = .pulse 0xFFFFFFFF := by decide

/-- R253, A1 to A3: a run gives one record per word, and a frame not yet terminated emits nothing. -/
theorem test_runResult :
    eventBits (runResult Config.hardware [0x200000000, 0x100002A62, 0x10000015E, 0x000000000]) =
      some ([false, false, false, false], 0) := by decide

/-! ### Witnesses: the hypotheses of each statement can be met together -/

/-- The invariant of a state that shows no event, in decidable form. -/
theorem inv_of_decided {s : State}
    (h1 : configLegal s.cfg = true ∧ s.st ≠ .code3 ∧ (s.st = .idle → s.cnt = 0) ∧
      (s.Busy → 1 ≤ s.cnt ∧ s.cnt ≤ s.cfg.maxAccum) ∧ (s.Busy → isLong s.cfg (bufRead s 0) = true))
    (h2 : ∀ i, i < s.cnt → 1 ≤ i → isLong s.cfg (bufRead s i) = false)
    (h3 : (s.st = .repeatPending → s.cfg.confirmMode = .double) ∧
      (s.st = .repeatPending → lenKnown s.cfg s.flen = true) ∧
      (s.st = .repeatPending → isLong s.cfg (s.fbuf.getD 0 0) = true))
    (h4 : ∀ i, i < s.flen → 1 ≤ i → isLong s.cfg (s.fbuf.getD i 0) = false)
    (h5 : (s.st = .repeatPending → repeatMatch s.cfg (bufRead s 0) (s.fbuf.getD 0 0) = true) ∧
      (s.st ≠ .repeatPending → s.flen = 0) ∧ s.buf.length = s.cfg.maxAccum ∧ s.fbuf.length = s.cfg.maxAccum ∧
      s.out.gFrame.length = s.cfg.maxAccum ∧ s.out.gLen < countBound s.cfg)
    (h6 : s.out.evValid = false ∧ s.att.id ≠ 0xFF) : Inv s where
  config_legal := h1.1
  st_legal := h1.2.1
  idle_count := h1.2.2.1
  busy_count := h1.2.2.2.1
  busy_sync := h1.2.2.2.2
  busy_data := fun _ i hi hc => h2 i hc hi
  pending_mode := h3.1
  pending_length := h3.2.1
  pending_sync := h3.2.2
  pending_data := fun _ i hi hc => h4 i hc hi
  pending_tolerance := h5.1
  flen_zero := h5.2.1
  buf_size := h5.2.2.1
  fbuf_size := h5.2.2.2.1
  frame_size := h5.2.2.2.2.1
  frame_length := h5.2.2.2.2.2
  kind_legal := fun h => absurd (h6.1.symm.trans h) (by decide)
  button_legal := fun h => absurd (h6.1.symm.trans h) (by decide)
  id_legal := fun h => absurd (h6.1.symm.trans h) (by decide)
  local_id_legal := h6.2

theorem inv_reset : Inv State.reset :=
  inv_of_decided (by decide) (by decide) (by decide) (by decide) (by decide) (by decide)

theorem inv_accumulated : Inv (accumulated p1Frame 49) :=
  inv_of_decided (by decide) (by decide) (by decide) (by decide) (by decide) (by decide)

theorem inv_pending : Inv (pending 49) :=
  inv_of_decided (by decide) (by decide) (by decide) (by decide) (by decide) (by decide)

/-- The data pulses of a list are not long, checked in one pass. -/
theorem data_of_all {l : List Dur} (h : l.all (fun x => decide (x.toNat ≤ 5000)) = true) :
    ∀ x ∈ l, ¬ 5000 < x.toNat := by
  intro x hx
  have := List.all_eq_true.1 h x hx
  simp only [decide_eq_true_eq] at this
  omega

theorem p1_data : ∀ x ∈ p1Frame.tail, ¬ 5000 < x.toNat := data_of_all (by decide)

theorem p2_data : ∀ x ∈ p2Frame.tail, ¬ 5000 < x.toNat := data_of_all (by decide)

theorem test_witness_DecodeInvertsEncode :
    WellFormed (.swBtnIllegal 0b1111111111) ∧ WellFormed (.thFrame 0xFE true 127 15 15) := by decide

theorem test_witness_PortWordsDecodeByRstAndVld :
    State.reset.st = .idle ∧ (accumulated p1Frame 1).st = .accum ∧ (pending 49).st = .repeatPending := ⟨rfl, rfl, rfl⟩

theorem test_witness_StepRunsDecodedInstruction :
    let s := { State.reset with input := [encode (.pulse 10850)] }
    configLegal s.cfg = true ∧ s.st ≠ .code3 ∧ ¬(s.out.evValid = true ∧ s.out.kind = .reserved) ∧
      WellFormed (.pulse 10850) ∧ s.input = encode (.pulse 10850) :: [] ∧ 32 ≤ s.cfg.durW ∧
      State.reset.input = [] := by decide

theorem test_witness_StepStopsOutsideSpecification :
    let bad : State := { State.reset with cfg := { Config.hardware with maxAccum := 50 } }
    let shown : State := { State.reset with out := { OutRecord.reset 65 with evValid := true, kind := .reserved } }
    ({ State.reset with st := .code3 } : State).st = .code3 ∧ (bad.st ≠ .code3 ∧ configLegal bad.cfg = false) ∧
      (shown.st ≠ .code3 ∧ configLegal shown.cfg = true ∧ shown.out.evValid = true ∧ shown.out.kind = .reserved) := by
  decide

theorem test_witness_OutsideCodesFault : ({ State.reset with st := .code3 } : State).st = .code3 := rfl

theorem test_witness_SyncWindowInPulseTerms :
    1 ≤ Config.hardware.switchRow.syncDivisor ∧
      ∀ n, syncInRange (Config.hardware.row n)
        (delayOf (Config.hardware.row n) (if n = .switch then 12430 else 7750)) = true := by
  refine ⟨by decide, fun n => ?_⟩
  cases n <;> decide

theorem test_witness_PulseDispatchesOnStateAndClass :
    State.reset.st = .idle ∧ (accumulated p1Frame 49).st = .accum ∧ (pending 49).st = .repeatPending ∧
      Config.hardware.longMinUs < (5001 : Dur).toNat ∧ ¬ Config.hardware.longMinUs < (5000 : Dur).toNat ∧
      ({ State.reset with st := .code3 } : State).st = .code3 := by decide

theorem test_witness_IdlePulseStartsOrIsIgnored : State.reset.st = .idle := rfl

theorem test_witness_AccumDataAppendsOrOverflows :
    (accumulated p1Frame 64).st = .accum ∧ (accumulated p1Frame 64).cnt < Config.hardware.maxAccum ∧
      (accumulated p1Frame 65).st = .accum ∧ ¬ (accumulated p1Frame 65).cnt < Config.hardware.maxAccum ∧
      ¬ Config.hardware.longMinUs < (5000 : Dur).toNat := by decide

theorem test_witness_QualifyingPulseEmitsFrame :
    let s := accumulated p1Frame 49
    configLegal s.cfg = true ∧ s.cfg.confirmMode = .singleShot ∧ s.st = .accum ∧
      s.cfg.longMinUs < (11050 : Dur).toNat ∧ s.cnt ∈ s.cfg.frameLengths ∧
      absDiff 11050 (bufRead s 0) ≤ s.cfg.repeatTolUs := by decide

theorem test_witness_DoubleModeHoldsFirstFrame :
    let s : State := { accumulated p1Frame 49 with cfg := doubleConfig }
    s.cfg.confirmMode = .double ∧ s.st = .accum ∧ s.cfg.longMinUs < (10650 : Dur).toNat ∧
      s.cnt ∈ s.cfg.frameLengths ∧ absDiff 10650 (bufRead s 0) ≤ s.cfg.repeatTolUs := by decide

theorem test_witness_NonQualifyingPulseRestarts :
    let s := accumulated p1Frame 49
    let u := accumulated p1Frame 48
    (s.st = .accum ∧ s.cfg.longMinUs < (11051 : Dur).toNat ∧
      ¬(s.cnt ∈ s.cfg.frameLengths ∧ absDiff 11051 (bufRead s 0) ≤ s.cfg.repeatTolUs)) ∧
    (u.st = .accum ∧ u.cfg.longMinUs < (10850 : Dur).toNat ∧
      ¬(u.cnt ∈ u.cfg.frameLengths ∧ absDiff 10850 (bufRead u 0) ≤ u.cfg.repeatTolUs)) := by decide

theorem test_witness_RepeatDataAppendsOrOverflows :
    (pending 64).st = .repeatPending ∧ (pending 64).cnt < doubleConfig.maxAccum ∧
      (pending 65).st = .repeatPending ∧ ¬ (pending 65).cnt < doubleConfig.maxAccum ∧
      ¬ doubleConfig.longMinUs < (5000 : Dur).toNat := by decide

theorem test_witness_RepeatConfirmsOrDiscardsFirstFrame :
    let s := pending 49
    configLegal s.cfg = true ∧ s.st = .repeatPending ∧ s.cfg.longMinUs < (11100 : Dur).toNat ∧
      s.flen ∈ s.cfg.frameLengths ∧ (s.cnt = s.flen ∧ absDiff 11100 (bufRead s 0) ≤ s.cfg.repeatTolUs) ∧
      ¬(s.cnt = s.flen ∧ absDiff 11101 (bufRead s 0) ≤ s.cfg.repeatTolUs) ∧ (pending 30).cnt ≠ (pending 30).flen := by
  decide

theorem test_witness_ResetReachesThePowerUpState : Inv (pending 49) := inv_pending

theorem test_witness_EventsOnlyAtTerminatingPulses :
    ∃ t, Inv (accumulated p1Frame 49) ∧ isPortOp (.pulse 10900) = true ∧
      exec (.pulse 10900) (accumulated p1Frame 49) = .next t ∧ t.out.evValid = true :=
  ⟨_, inv_accumulated, rfl, rfl, by decide⟩

theorem test_witness_EmittedFramesHaveKnownLength :
    (∃ t, Inv (accumulated p1Frame 49) ∧ exec (.pulse 10900) (accumulated p1Frame 49) = .next t ∧
      t.out.evValid = true) ∧
    (∃ t, Inv (pending 49) ∧ exec (.pulse 10880) (pending 49) = .next t ∧ t.out.evValid = true) :=
  ⟨⟨_, inv_accumulated, rfl, by decide⟩, ⟨_, inv_pending, rfl, by decide⟩⟩

theorem test_witness_EmittedFramesAreWithinTolerance :
    (∃ t, Inv (accumulated p1Frame 49) ∧ (accumulated p1Frame 49).cfg.confirmMode = .singleShot ∧
      exec (.pulse 10650) (accumulated p1Frame 49) = .next t ∧ t.out.evValid = true) ∧
    (∃ t, Inv (pending 49) ∧ (pending 49).cfg.confirmMode = .double ∧
      exec (.pulse 10700) (pending 49) = .next t ∧ t.out.evValid = true) :=
  ⟨⟨_, inv_accumulated, rfl, rfl, by decide⟩, ⟨_, inv_pending, rfl, rfl, by decide⟩⟩

theorem test_witness_TwoLongPulsesRestartFraming :
    (State.reset.st = .idle ∧ 1 ∉ State.reset.cfg.frameLengths ∧ State.reset.buf ≠ []) ∧
    ((accumulated p1Frame 49).st = .accum ∧ 1 ∉ (accumulated p1Frame 49).cfg.frameLengths ∧
      (accumulated p1Frame 49).buf ≠ []) ∧
    Config.hardware.longMinUs < (8000 : Dur).toNat ∧ Config.hardware.longMinUs < (9000 : Dur).toNat := by decide

theorem test_witness_WholeFrameIsAssembledAndDecoded :
    let s := State.reset
    configLegal s.cfg = true ∧ s.cfg.confirmMode = .singleShot ∧ s.st = .idle ∧ s.buf.length = s.cfg.maxAccum ∧
      s.cfg.longMinUs < (10850 : Dur).toNat ∧ (∀ x ∈ p1Frame.tail, ¬ s.cfg.longMinUs < x.toNat) ∧
      p1Frame.tail.length + 1 ∈ s.cfg.frameLengths ∧ s.cfg.longMinUs < (10900 : Dur).toNat ∧
      absDiff 10900 10850 ≤ s.cfg.repeatTolUs :=
  ⟨by decide, rfl, rfl, by decide, by decide, p1_data, by decide, by decide, by decide⟩

theorem test_witness_ConfirmedFrameIsTheFirstOne :
    let s : State := { State.reset with cfg := doubleConfig }
    configLegal s.cfg = true ∧ s.cfg.confirmMode = .double ∧ s.st = .idle ∧ s.buf.length = s.cfg.maxAccum ∧
      s.fbuf.length = s.cfg.maxAccum ∧ s.cfg.longMinUs < (10850 : Dur).toNat ∧
      s.cfg.longMinUs < (10900 : Dur).toNat ∧ s.cfg.longMinUs < (10880 : Dur).toNat ∧
      (∀ x ∈ p1Frame.tail, ¬ s.cfg.longMinUs < x.toNat) ∧ (∀ x ∈ p2Frame.tail, ¬ s.cfg.longMinUs < x.toNat) ∧
      p1Frame.tail.length + 1 ∈ s.cfg.frameLengths ∧ p2Frame.tail.length = p1Frame.tail.length ∧
      absDiff 10900 10850 ≤ s.cfg.repeatTolUs ∧ absDiff 10880 10900 ≤ s.cfg.repeatTolUs :=
  ⟨by decide, rfl, rfl, by decide, by decide, by decide, by decide, by decide, p1_data, p2_data, by decide, by decide,
    by decide, by decide⟩

theorem test_witness_BackToBackRepeatsEmitAlternateFrames :
    let s := State.reset
    configLegal s.cfg = true ∧ s.cfg.confirmMode = .singleShot ∧ s.st = .idle ∧ s.cnt = 0 ∧
      s.buf.length = s.cfg.maxAccum ∧ s.cfg.longMinUs < (10850 : Dur).toNat ∧
      (∀ x ∈ p1Frame.tail ++ p1Frame.tail ++ p1Frame.tail, ¬ s.cfg.longMinUs < x.toNat) ∧
      p1Frame.tail.length + 1 ∈ s.cfg.frameLengths ∧ absDiff 10850 10850 ≤ s.cfg.repeatTolUs := by
  refine ⟨by decide, rfl, rfl, rfl, by decide, by decide, ?_, by decide, by decide⟩
  simp only [List.mem_append, or_self]
  exact p1_data

theorem test_witness_ChecksumVerifierIsTheCheckList :
    configLegal Config.hardware = true ∧
      ∀ n, (Config.hardware.row n).layout = (if n = .switch then .switch else .therm) := by
  refine ⟨by decide, fun n => ?_⟩
  cases n <;> rfl

theorem test_witness_ButtonFieldIsOneOfFiveCodes : (buttonBits .c).length = 10 := by decide

theorem test_witness_SwitchFieldsInvertTheLayout :
    p1Bits.length = 24 ∧ p1Bits = switchString .onIs00 0b00001 .b true ∧
      ∀ mask x p, List.replicate 24 true ≠ switchString .onIs00 mask x p := by
  refine ⟨by decide, by decide, fun mask x p h => ?_⟩
  unfold switchString channelString at h
  generalize mask.getLsbD 0 = on at h
  cases on <;> simp [channelBits, List.replicate_succ] at h

theorem test_witness_ThermometerFieldsAreTheirBits :
    idffBits.length = 24 ∧ bitSlice idffBits 0 7 = [true, true, true, true, true, true, true, true] ∧
      p1Bits.length = 24 ∧ bitSlice p1Bits 0 7 ≠ [true, true, true, true, true, true, true, true] := by decide

theorem test_witness_SwitchAndThermometerSyncsAreDisjoint :
    configLegal Config.hardware = true ∧
      syncInRange Config.hardware.switchRow (delayOf Config.hardware.switchRow (p1Frame.getD 0 0)) = true ∧
      Config.hardware.switchRow.layout = .switch := by decide

theorem test_witness_ThermBIsUnreachableAtTheDefaults :
    tryProtocol Config.hardware Config.hardware.thermBRow p2Frame =
      .ok (.thermometerReading 0x5A true 23 7 false) := by decide

theorem test_witness_SixtyFiveEntryFramesAreGeneric :
    ((10850 : Dur) :: List.replicate 64 350).length = 65 := by decide

theorem test_witness_DelayFiveHundredIsGeneric :
    ∀ n ∈ [15500, 15530], (frameOf n 350 p1Bits).length = 49 ∧ 15500 ≤ ((frameOf n 350 p1Bits).getD 0 0).toNat ∧
      ((frameOf n 350 p1Bits).getD 0 0).toNat ≤ 15530 := by decide

theorem test_witness_SwitchFramesRoundTrip :
    p1Frame.length = 49 ∧ 9300 ≤ (p1Frame.getD 0 0).toNat ∧ (p1Frame.getD 0 0).toNat ≤ 12430 ∧
      Spells Config.hardware.switchRow p1Frame (switchString .onIs00 0b00001 .b true) := by
  refine ⟨by decide, by decide, by decide, ?_⟩
  unfold Spells; decide

theorem test_witness_ThermometerFramesDecode :
    (0x5A : BitVec 8) ≠ 0xFF ∧ p2Frame.length = 49 ∧ 7750 ≤ (p2Frame.getD 0 0).toNat ∧
      (p2Frame.getD 0 0).toNat ≤ 8090 ∧ Spells Config.hardware.thermARow p2Frame (thermoString 0x5A true 23 0 7) := by
  refine ⟨by decide, by decide, by decide, by decide, ?_⟩
  unfold Spells; decide

theorem test_witness_ReservedIdIsGeneric :
    idffFrame.length = 49 ∧ idffBits.length = 24 ∧ 7750 ≤ (idffFrame.getD 0 0).toNat ∧
      (idffFrame.getD 0 0).toNat ≤ 8090 ∧ Spells Config.hardware.thermARow idffFrame idffBits ∧
      bitSlice idffBits 0 7 = [true, true, true, true, true, true, true, true] := by
  refine ⟨by decide, by decide, by decide, by decide, ?_, by decide⟩
  unfold Spells; decide

theorem test_witness_HalfPairBitsSpellTheString :
    let s := trying 0 (p1Bits.take 22)
    let u := trying 0 (p1Bits.take 23)
    let desc := Config.hardware.switchRow
    (handedFrame s).length ≤ s.cfg.maxAccum ∧ currentDesc s = some desc ∧ currentDesc u = some desc ∧
      s.att.bits.length + 1 < (desc.expectedLength - 1) / 2 ∧ (desc.expectedLength - 1) / 2 ≤ u.att.bits.length + 1 ∧
      layoutFields u.cfg desc.layout (u.att.bits ++ [true]) = .ok (.switchCommand 0b00001 .b true) ∧
      layoutFields u.cfg desc.layout (u.att.bits ++ [false]) = .error .pwr ∧ currentDesc (trying 3 []) = none := by decide

theorem test_witness_IllegalCodesRejectTheAttempt :
    (handedFrame (accumulated p1Frame 49)).length ≤ Config.hardware.maxAccum ∧ WellFormed (.swBtnIllegal 0b0101010101) ∧
      WellFormed (.swPwrIllegal 0b0000) := by decide

theorem test_witness_BatteryCodesWriteTheFlag : (0b0001 : BitVec 4) ≠ 0 := by decide

theorem test_witness_SwitchStringGivesCommandOrRejects :
    (handedFrame (accumulated p1Frame 49)).length ≤ Config.hardware.maxAccum ∧
      bitsOf 0b0001010101#10 = channelString .onIs00 0b00001 ∧ bitsOf 0b0100010101#10 = buttonBits .b ∧
      bitsOf 0b0001#4 = powerBits true ∧ ∀ p, bitsOf 0b0000#4 ≠ powerBits p := by decide

theorem test_witness_ThermometerStringGivesReading : (0xFE : BitVec 8) ≠ 0xFF ∧ (0x00 : BitVec 8) ≠ 0xFF := by decide

theorem test_witness_EventKindsPresentTheirEvent :
    (handedFrame (accumulated (10850 :: List.replicate 64 350) 65)).length ≤ Config.hardware.maxAccum := by decide

theorem test_witness_SwitchCodesComposeToTheString :
    bitsOf 0b0000000000#10 = channelString State.reset.cfg.channelPolarity 0b11111 ∧
      bitsOf 0b0101010100#10 = buttonBits .e ∧ bitsOf 0b0100#4 = powerBits false := by decide

/-- One frame that the attempt accepts, one with a BAD pair and one that a field rejects. -/
theorem test_witness_SymbolsComposeToTheAttempt :
    let s := trying 0 []
    let desc := Config.hardware.switchRow
    configLegal s.cfg = true ∧ s.att.bits = [] ∧ currentDesc s = some desc ∧
      (handedFrame s).length ≤ s.cfg.maxAccum ∧ p1Frame.length = desc.expectedLength ∧ 3 ≤ p1Frame.length ∧
      syncInRange desc (delayOf desc (p1Frame.getD 0 0)) = true ∧
      tryProtocol s.cfg desc p1Frame = .ok (.switchCommand 0b00001 .b true) ∧
      tryProtocol s.cfg desc (p1Frame.set 1 700) = .error .pair ∧
      tryProtocol s.cfg desc (frameOf 10850 350 (p1Bits.set 0 true)) = .error .chan := by decide

theorem test_witness_EveryStepKeepsTheInvariant :
    ∃ t, Inv (accumulated p1Frame 49) ∧ step (accumulated p1Frame 49) = .next t :=
  ⟨_, inv_accumulated, step_of_stopReason_none (stopReason_eq_none.2 (by decide))⟩

theorem test_witness_NoInstructionWritesTheConfiguration :
    ∃ t, exec (.thFrame 0x5A true 23 0 7) State.reset = .next t := ⟨_, rfl⟩

theorem test_witness_FieldCodesKeepTheFraming :
    ∃ t, isPortOp .evGeneric = false ∧ exec .evGeneric (accumulated p1Frame 49) = .next t := ⟨_, rfl, rfl⟩

theorem test_witness_PortOperationsIgnoreTheLocals : isPortOp (.pulse 10850) = true := rfl

/-- Stale entries above `cnt` differ. -/
theorem test_witness_StaleStateIsUnobservable :
    ∃ s', Inv (accumulated p1Frame 49) ∧
      SameLive (accumulated p1Frame 49) { accumulated p1Frame 49 with buf := (accumulated p1Frame 49).buf.set 64 7 } ∧
      isPortOp (.pulse 10900) = true ∧ exec (.pulse 10900) (accumulated p1Frame 49) = .next s' :=
  ⟨_, inv_accumulated, ⟨rfl, rfl, rfl, rfl, by decide, rfl, by decide, rfl⟩, rfl, rfl⟩

theorem test_witness_PortSequencesNeverStop :
    Inv State.reset ∧ ∀ w ∈ [InputWord.port 0x200000000, InputWord.port 0x100002A62], isPortWord w = true :=
  ⟨inv_reset, by decide⟩

end Sys2Proof.Machine.Test
end

section
/-!
The encoding family (30_encoding.md): what a port word decodes to and which of its fields matter (R81, R82), the codes
outside the specification (R31, R93), and the button field (R88, R201).
-/

namespace Sys2Proof.Machine

/-! ### Port words (R81, R82) -/

@[simp] theorem decode_encodePort (rst vld : Bool) (dur : Dur) :
    decode (.port (encodePort rst vld dur)) =
      if rst then .reset vld dur else if vld then .pulse dur else .nop dur := by
  simp only [decode, decodePort, encodePort_rst, encodePort_vld, encodePort_dur]

theorem exec_reset_ignores_operands (s : State) (vld vld' : Bool) (dur dur' : Dur) :
    exec (.reset vld dur) s = exec (.reset vld' dur') s := rfl

theorem exec_nop_ignores_operand (s : State) (dur dur' : Dur) : exec (.nop dur) s = exec (.nop dur') s := rfl

section Pulse
variable {s : State} (d : Dur)

theorem exec_pulse_idle_by_length (h : s.st = .idle) :
    exec (.pulse d) s = .next (if s.cfg.longMinUs < d.toNat then { startAccum d (clearEvent s) with st := .accum }
      else clearEvent s) := by
  split
  case isTrue hl => exact exec_pulse_start h hl
  case isFalse hl => exact exec_pulse_ignored h hl

theorem exec_pulse_accum_by_length (h : s.st = .accum) :
    exec (.pulse d) s = .next (if s.cfg.longMinUs < d.toNat then accumLong d (clearEvent s)
      else accumData d (clearEvent s)) := by
  simp only [exec_pulse_accum d h, isLong_eq_true]

theorem exec_pulse_repeatPending_by_length (h : s.st = .repeatPending) :
    exec (.pulse d) s = .next (if s.cfg.longMinUs < d.toNat then repLong d (clearEvent s)
      else repData d (clearEvent s)) := by
  simp only [exec_pulse_repeatPending d h, isLong_eq_true]

theorem exec_pulse_code3 (h : s.st = .code3) : exec (.pulse d) s = .fault .framingStateThree := by
  simp only [exec, execPulse, h]

end Pulse

/-- Settles O4: a port word's three fields decide what it decodes to, every word has three such fields, and
`DUR` is read by PULSE alone. -/
theorem portWordsDecodeByRstAndVld : Obligations.PortWordsDecodeByRstAndVld := by
  refine ⟨decode_encodePort, fun w => ⟨_, _, _, (encodePort_of_fields w).symm, rfl, rfl, rfl⟩, ?_, ?_, ?_⟩
  · intro s vld dur
    simpa using exec_reset_ignores_operands s vld false dur 0
  · intro s dur
    simpa using exec_nop_ignores_operand s dur 0
  · intro s dur
    simp only [decode_encodePort, Bool.false_eq_true, if_false, if_true]
    exact ⟨exec_pulse_idle_by_length dur, exec_pulse_accum_by_length dur, exec_pulse_repeatPending_by_length dur⟩

/-! ### Codes outside the specification (R31, R93) -/

theorem exec_evReserved (s : State) : exec .evReserved s = .fault .reservedEventKind := rfl

/-- Settles O7, by the arm of PULSE for `st = 3` and the arm of EV_RESERVED. -/
theorem outsideCodesFault : Obligations.OutsideCodesFault :=
  ⟨fun _ d h => exec_pulse_code3 d h, exec_evReserved⟩

/-! ### The button field (R88, R201) -/

section Scan
variable {n m : Nat} {btn x k : Button} {p : List Bool} {ps : List (Button × List Bool)}

/-- One turn of the loop: a pair "00" is counted and noted, a pair "01" is passed over, any other ends the loop. -/
theorem scanButtonPairs_cons_eq_ok :
    scanButtonPairs n btn ((k, p) :: ps) = .ok (m, x) ↔
      p = [false, false] ∧ scanButtonPairs (n + 1) k ps = .ok (m, x) ∨
      p = [false, true] ∧ scanButtonPairs n btn ps = .ok (m, x) := by
  rw [scanButtonPairs]
  split
  case isTrue hp => simp [hp]
  case isFalse h00 =>
    split
    case isTrue hp => simp [hp]
    case isFalse h01 => simp [h00, h01]

theorem le_of_scanButtonPairs_eq_ok (h : scanButtonPairs n btn ps = .ok (m, x)) : n ≤ m := by
  induction ps generalizing n btn with
  | nil => cases h; exact le_rfl
  | cons q ps ih =>
    obtain ⟨-, h⟩ | ⟨-, h⟩ := scanButtonPairs_cons_eq_ok.1 h
    · exact (Nat.le_succ n).trans (ih h)
    · exact ih h

/-- No further pair "00" is counted exactly if every pair is "01". -/
theorem scanButtonPairs_eq_ok_same :
    scanButtonPairs n btn ps = .ok (n, x) ↔ btn = x ∧ ∀ q ∈ ps, q.2 = [false, true] := by
  induction ps generalizing btn with
  | nil => simp [scanButtonPairs]
  | cons q ps ih =>
    have hmore : scanButtonPairs (n + 1) q.1 ps ≠ .ok (n, x) :=
      fun h => absurd (le_of_scanButtonPairs_eq_ok h) (Nat.not_succ_le_self n)
    rw [scanButtonPairs_cons_eq_ok, ih]
    simp only [hmore, and_false, false_or, List.forall_mem_cons, and_left_comm]

/-- One pair "00" is counted exactly if it is the pair of `x` and every other pair is "01". -/
theorem scanButtonPairs_eq_ok_succ (hps : (ps.map Prod.fst).Nodup) :
    scanButtonPairs n btn ps = .ok (n + 1, x) ↔
      x ∈ ps.map Prod.fst ∧ ∀ q ∈ ps, q.2 = if q.1 = x then [false, false] else [false, true] := by
  induction ps generalizing btn with
  | nil => simp [scanButtonPairs]
  | cons q ps ih =>
    obtain ⟨hq, hps⟩ := List.nodup_cons.1 hps
    rw [scanButtonPairs_cons_eq_ok, scanButtonPairs_eq_ok_same, ih hps, List.map_cons, List.mem_cons,
      List.forall_mem_cons]
    by_cases hx : q.1 = x
    · subst hx
      have hrest : ∀ r ∈ ps, r.1 ≠ q.1 := fun r hr e => hq (e ▸ List.mem_map_of_mem hr)
      have hones : (∀ r ∈ ps, r.2 = if r.1 = q.1 then [false, false] else [false, true]) ↔
          ∀ r ∈ ps, r.2 = [false, true] := forall₂_congr fun r hr => by rw [if_neg (hrest r hr)]
      simp only [hones, hq, false_and, and_false, or_false, true_and, if_true]
    · simp only [hx, Ne.symm hx, false_and, and_false, false_or, if_false, and_left_comm]

end Scan

theorem switchButton_eq_ok_iff_scan {f : List Bool} {x : Button} :
    switchButton f = .ok x ↔ scanButtonPairs 0 .a (buttonPairs f) = .ok (1, x) := by
  unfold switchButton
  cases scanButtonPairs 0 .a (buttonPairs f) with
  | error r => simp
  | ok found =>
    obtain ⟨zeros, btn⟩ := found
    by_cases hz : zeros = 1 <;> simp [hz]

theorem buttonPairs_map_fst (f : List Bool) : (buttonPairs f).map Prod.fst = [.a, .b, .c, .d, .e] := rfl

/-- A 10-bit field is the concatenation of its five pairs, so the pairs of a button's code belong to that code alone. -/
theorem buttonPairs_code_iff_eq_buttonBits {f : List Bool} (hf : f.length = 10) (x : Button) :
    (∀ q ∈ buttonPairs f, q.2 = if q.1 = x then [false, false] else [false, true]) ↔ f = buttonBits x := by
  match f, hf with
  | [_, _, _, _, _, _, _, _, _, _], _ => cases x <;> simp [buttonPairs, bitSlice, buttonBits, and_assoc]

theorem switchButton_eq_ok {f : List Bool} (hf : f.length = 10) {x : Button} :
    switchButton f = .ok x ↔ f = buttonBits x := by
  have hps : ((buttonPairs f).map Prod.fst).Nodup := by rw [buttonPairs_map_fst]; decide
  have hx : x ∈ (buttonPairs f).map Prod.fst := by rw [buttonPairs_map_fst]; cases x <;> decide
  rw [switchButton_eq_ok_iff_scan, scanButtonPairs_eq_ok_succ hps, and_iff_right hx,
    buttonPairs_code_iff_eq_buttonBits hf]

/-- Settles O33: the scan accepts a field exactly if one pair is "00" and the others are "01", which is the code of the
button at that pair. -/
theorem buttonFieldIsOneOfFiveCodes : Obligations.ButtonFieldIsOneOfFiveCodes := by
  refine ⟨fun f hf => ⟨fun x => switchButton_eq_ok hf, fun hne => ?_⟩, ?_⟩
  · cases h : switchButton f with
    | error r => exact ⟨r, rfl⟩
    | ok x => exact absurd ((switchButton_eq_ok hf).1 h) (hne x)
  · intro x k hk
    interval_cases k <;> cases x <;> rfl

end Sys2Proof.Machine
end

section
/-!
The matcher family (40_pulse_matcher.md): the distance of two durations (R121), the repeat-tolerance window (R122), and
the class of a half-pulse with the symbol a pair spells (R126, R127).
-/

namespace Sys2Proof.Machine

/-! ### The distance of two durations (R121, R122) -/

theorem absDiff_coe (a b : Dur) : (absDiff a b : Int) = |(a.toNat : Int) - (b.toNat : Int)| := by
  unfold absDiff
  split
  case isTrue h => rw [Nat.cast_sub h, abs_of_nonneg (sub_nonneg.2 (Nat.cast_le.2 h))]
  case isFalse h =>
    have hle := Nat.le_of_not_ge h
    rw [Nat.cast_sub hle, abs_sub_comm, abs_of_nonneg (sub_nonneg.2 (Nat.cast_le.2 hle))]

theorem absDiff_comm (a b : Dur) : absDiff a b = absDiff b a := by
  apply Int.ofNat_inj.1
  rw [absDiff_coe, absDiff_coe, abs_sub_comm]

@[simp] theorem absDiff_self (a : Dur) : absDiff a a = 0 := by
  apply Int.ofNat_inj.1
  rw [absDiff_coe, sub_self, abs_zero, Nat.cast_zero]

/-- The distance is within a bound exactly if neither duration exceeds the other by more. -/
theorem absDiff_le_iff {a b : Dur} {n : Nat} :
    absDiff a b ≤ n ↔ b.toNat ≤ a.toNat + n ∧ a.toNat ≤ b.toNat + n := by
  rw [← Int.ofNat_le, absDiff_coe, abs_le]
  omega

theorem absDiff_le_max (a b : Dur) : absDiff a b ≤ 4294967295 :=
  have ha := a.isLt
  have hb := b.isLt
  absDiff_le_iff.2 ⟨by omega, by omega⟩

/-- Settles O8: the two branches of `absDiff` are the two signs of the integer difference, and two 32-bit numbers are
at most 2^32 - 1 apart. -/
theorem absDiffIsTheDistance : Obligations.AbsDiffIsTheDistance := fun a b =>
  ⟨absDiff_coe a b, absDiff_comm a b, absDiff_le_max a b, absDiff_self a⟩

theorem repeatMatch_comm (c : Config) (d s : Dur) : repeatMatch c d s = repeatMatch c s d := by
  rw [repeatMatch, repeatMatch, absDiff_comm]

/-- Settles O9: the window is a bound on the distance, so it is inclusive and as symmetric as the distance is. -/
theorem repeatWindowIsInclusiveAndSymmetric : Obligations.RepeatWindowIsInclusiveAndSymmetric := fun c d s =>
  ⟨repeatMatch_eq_true.trans absDiff_le_iff, repeatMatch_comm c d s, repeatMatch_eq_true⟩

/-! ### Half-pulses and their pairs (R126, R127) -/

theorem halfClass_eq_short {desc : Descriptor} {d : Dur} : halfClass desc d = .short ↔ d.toNat < desc.threshUs := by
  simp [halfClass]

theorem halfClass_eq_long {desc : Descriptor} {d : Dur} : halfClass desc d = .long ↔ desc.threshUs ≤ d.toNat := by
  simp [halfClass]

/-- A pair is BAD exactly if its halves are of one class. -/
theorem pairSymbol_eq_bad {desc : Descriptor} {a c : Dur} :
    pairSymbol desc a c = .bad ↔ halfClass desc a = halfClass desc c := by
  unfold pairSymbol
  cases halfClass desc a <;> cases halfClass desc c <;> decide

/-- There are two classes, so two halves share one exactly if both or neither are short. -/
theorem halfClass_eq_halfClass {desc : Descriptor} {a c : Dur} :
    halfClass desc a = halfClass desc c ↔ (a.toNat < desc.threshUs ↔ c.toNat < desc.threshUs) := by
  rw [← halfClass_eq_short, ← halfClass_eq_short]
  cases halfClass desc a <;> cases halfClass desc c <;> decide

/-- Settles O10: the class is decided by the threshold and the symbol by the two classes in their order. -/
theorem pairSymbolByOrderOfHalves : Obligations.PairSymbolByOrderOfHalves := by
  refine ⟨fun desc a c => ?_, rfl, rfl, rfl⟩
  obtain ⟨hbit1, hbit0⟩ := pairSymbol_spells desc a c
  exact ⟨halfClass_eq_short, halfClass_eq_long, hbit0, hbit1, pairSymbol_eq_bad.trans halfClass_eq_halfClass⟩

end Sys2Proof.Machine
end

section
/-!
The frame synchronizer family (41_frame_sync.md): PULSE by framing state and pulse class (R141 to R148), RESET (R150)
and NOP (R151), each with its frame.
-/

namespace Sys2Proof.Machine

/-! ### The shared facts -/

theorem exec_pulse_keeps_locals_surroundings {s t : State} {d : Dur} (h : exec (.pulse d) s = .next t) :
    t.att = s.att ∧ SameSurroundings s t :=
  (portOp_frame rfl h).symm

/-- An emission of a frame that fits `g_frame` shows its decoding (R149, R92). -/
theorem emitFrame_shows {s : State} {frame : List Dur} (h : frame.length ≤ s.cfg.maxAccum) :
    (emitFrame frame s).out.Shows (decodeFrame s.cfg frame) :=
  decodeFrame_shows s.cfg s.draws h

/-- The first entries of a buffer, as many as a known length, fit `g_frame` (R42 item 4). -/
theorem length_take_known_le_maxAccum {c : Config} (hc : configLegal c = true) {n : Nat} (hn : n ∈ c.frameLengths)
    (l : List Dur) : (l.take n).length ≤ c.maxAccum :=
  (List.length_take_le n l).trans (known_length_fits hc hn)

/-- The match on the mode in RESET (R150), as the condition `CONFIRM_MODE = DOUBLE`. -/
theorem exec_reset (vld : Bool) (dur : Dur) (s : State) :
    exec (.reset vld dur) s =
      .next { clearEvent s with
        st := .idle, cnt := 0, flen := if s.cfg.confirmMode = .double then 0 else s.flen } := by
  simp only [exec, execReset]
  cases s.cfg.confirmMode <;> rfl

theorem exec_nop (dur : Dur) (s : State) : exec (.nop dur) s = .next (clearEvent s) := rfl

theorem clearEvent_sameFraming (s : State) : SameFraming s (clearEvent s) := ⟨rfl, rfl, rfl, rfl, rfl⟩

theorem clearEvent_sameSurroundings (s : State) : SameSurroundings s (clearEvent s) := ⟨rfl, rfl⟩

/-! ### A terminating pulse (R144, R145, R146, R148) -/

/-- Settles O15: the pulse qualifies, so the frame is emitted, and its known length fits the record. -/
theorem qualifyingPulseEmitsFrame : Obligations.QualifyingPulseEmitsFrame := by
  intro s d hc hm hst hl hn htol
  have he := exec_pulse_emit hst hl ⟨hn, htol⟩ hm
  have hshows : (emitFrame (bufFrame s) (clearEvent s)).out.Shows (decodeFrame s.cfg (bufFrame s)) :=
    emitFrame_shows (length_take_known_le_maxAccum hc hn s.buf)
  exact ⟨_, he, hshows, rfl, rfl, rfl, rfl, rfl, exec_pulse_keeps_locals_surroundings he⟩

/-- Settles O16: the pulse qualifies, so the frame is held and its repeat begins. -/
theorem doubleModeHoldsFirstFrame : Obligations.DoubleModeHoldsFirstFrame := by
  intro s d hm hst hl hn htol
  have he := exec_pulse_hold hst hl ⟨hn, htol⟩ hm
  exact ⟨_, he, rfl, rfl, rfl, rfl, rfl, rfl, exec_pulse_keeps_locals_surroundings he⟩

/-- Settles O17: what does not qualify restarts before the mode is looked at. -/
theorem nonQualifyingPulseRestarts : Obligations.NonQualifyingPulseRestarts := by
  intro s d hst hl hq
  have he := exec_pulse_restart hst hl hq
  exact ⟨_, he, rfl, hst, rfl, rfl, rfl, rfl, exec_pulse_keeps_locals_surroundings he⟩

/-- Settles O19, by whether the repeat confirms the first frame. -/
theorem repeatConfirmsOrDiscardsFirstFrame : Obligations.RepeatConfirmsOrDiscardsFirstFrame := by
  intro s d hc hst hl hn
  by_cases hq : s.cnt = s.flen ∧ absDiff d (bufRead s 0) ≤ s.cfg.repeatTolUs
  · have he := exec_pulse_confirm hst hl hq
    obtain ⟨hatt, hsur⟩ := exec_pulse_keeps_locals_surroundings he
    have hshows : (emitFrame (firstFrame s) (clearEvent s)).out.Shows (decodeFrame s.cfg (firstFrame s)) :=
      emitFrame_shows (length_take_known_le_maxAccum hc hn s.fbuf)
    refine ⟨_, he, rfl, rfl, hatt, hsur, ?_⟩
    rw [if_pos hq]
    exact ⟨hshows, rfl, rfl, rfl⟩
  · have he := exec_pulse_discard hst hl hq
    obtain ⟨hatt, hsur⟩ := exec_pulse_keeps_locals_surroundings he
    refine ⟨_, he, rfl, rfl, hatt, hsur, ?_⟩
    rw [if_neg hq]
    exact ⟨rfl, rfl, rfl, rfl⟩

/-! ### The dispatch, IDLE and data pulses (R141, R142, R143, R147) -/

/-- Settles O12, by the equation of PULSE for each framing state. -/
theorem pulseDispatchesOnStateAndClass : Obligations.PulseDispatchesOnStateAndClass := by
  intro s d
  refine ⟨exec_pulse_idle d, ?_, ?_, ?_, ?_, exec_pulse_code3 d⟩
  · intro hst hl
    rw [exec_pulse_accum_by_length d hst, if_pos hl]
  · intro hst hl
    rw [exec_pulse_accum_by_length d hst, if_neg hl]
  · intro hst hl
    rw [exec_pulse_repeatPending_by_length d hst, if_pos hl]
  · intro hst hl
    rw [exec_pulse_repeatPending_by_length d hst, if_neg hl]

/-- Settles O13, by the class of the pulse. -/
theorem idlePulseStartsOrIsIgnored : Obligations.IdlePulseStartsOrIsIgnored := by
  intro s d hst
  by_cases hl : s.cfg.longMinUs < d.toNat
  · have he := exec_pulse_start hst hl
    obtain ⟨hatt, hsur⟩ := exec_pulse_keeps_locals_surroundings he
    refine ⟨_, he, rfl, rfl, rfl, hatt, hsur, ?_⟩
    rw [if_pos hl]
    exact ⟨rfl, rfl, rfl⟩
  · refine ⟨_, exec_pulse_ignored hst hl, rfl, rfl, rfl, rfl, clearEvent_sameSurroundings s, ?_⟩
    rw [if_neg hl]
    exact ⟨hst, rfl, rfl⟩

/-- Settles O14, by whether the buffer has room. -/
theorem accumDataAppendsOrOverflows : Obligations.AccumDataAppendsOrOverflows := by
  intro s d hst hl
  by_cases hroom : s.cnt < s.cfg.maxAccum
  · have he := exec_pulse_append hst hl hroom
    obtain ⟨hatt, hsur⟩ := exec_pulse_keeps_locals_surroundings he
    refine ⟨_, he, rfl, rfl, rfl, hatt, hsur, ?_⟩
    rw [if_pos hroom]
    exact ⟨hst, rfl, rfl⟩
  · have he := exec_pulse_overflow hst hl hroom
    obtain ⟨hatt, hsur⟩ := exec_pulse_keeps_locals_surroundings he
    refine ⟨_, he, rfl, rfl, rfl, hatt, hsur, ?_⟩
    rw [if_neg hroom]
    exact ⟨rfl, rfl, rfl⟩

/-- Settles O18, by whether the buffer has room; without it both frames are discarded. -/
theorem repeatDataAppendsOrOverflows : Obligations.RepeatDataAppendsOrOverflows := by
  intro s d hst hl
  by_cases hroom : s.cnt < s.cfg.maxAccum
  · have he := exec_pulse_repeatAppend hst hl hroom
    obtain ⟨hatt, hsur⟩ := exec_pulse_keeps_locals_surroundings he
    refine ⟨_, he, rfl, rfl, hatt, hsur, ?_⟩
    rw [if_pos hroom]
    exact ⟨hst, rfl, rfl, rfl⟩
  · have he := exec_pulse_repeatOverflow hst hl hroom
    obtain ⟨hatt, hsur⟩ := exec_pulse_keeps_locals_surroundings he
    refine ⟨_, he, rfl, rfl, hatt, hsur, ?_⟩
    rw [if_neg hroom]
    exact ⟨rfl, rfl, rfl, rfl⟩

/-! ### RESET and NOP (R150, R151) -/

/-- Settles O20: in SINGLE_SHOT mode `flen` is left alone, in DOUBLE mode it is cleared with the count. -/
theorem resetDiscardsTheAccumulation : Obligations.ResetDiscardsTheAccumulation := fun s vld dur =>
  ⟨⟨_, exec_reset vld dur s, rfl, rfl, rfl, rfl, rfl, rfl, rfl, ⟨rfl, rfl⟩⟩,
    exec_reset_ignores_operands s vld false dur 0⟩

/-- Settles O21: NOP is `clearEvent`, which writes `out` and the draw counter alone. -/
theorem nopOnlyClearsTheEvent : Obligations.NopOnlyClearsTheEvent := fun s dur =>
  ⟨⟨_, exec_nop dur s, rfl, clearEvent_sameFraming s, rfl, clearEvent_sameSurroundings s⟩,
    exec_nop_ignores_operand s dur 0⟩

end Sys2Proof.Machine
end

section
/-!
The classifier family (42_classifier.md): the registry loop as a search for the first accepting descriptor (R170, R171).
-/

namespace Sys2Proof.Machine

theorem toOption_eq_some_iff_ok {ε α : Type} {x : Except ε α} {a : α} : x.toOption = some a ↔ x = .ok a := by
  cases x <;> simp [Except.toOption]

theorem toOption_eq_none_iff_error {ε α : Type} {x : Except ε α} : x.toOption = none ↔ ∃ e, x = .error e := by
  cases x <;> simp [Except.toOption]

/-- The registry loop is the library's search for a first success, with GENERIC as its default (R170, R171). -/
theorem firstAccepted_eq_findSome? (c : Config) (frame : List Dur) (descs : List Descriptor) :
    firstAccepted c frame descs =
      (descs.findSome? fun desc => (tryProtocol c desc frame).toOption).getD (.genericSignal frame) := by
  induction descs with
  | nil => rfl
  | cons desc rest ih =>
    cases h : tryProtocol c desc frame with
    | ok ev => simp [firstAccepted, h, Except.toOption]
    | error r => simp [firstAccepted, h, ih, Except.toOption]

theorem decodeFrame_eq_findSome? (c : Config) (frame : List Dur) :
    decodeFrame c frame =
      (c.registryOrder.findSome? fun n => (tryProtocol c (c.row n) frame).toOption).getD (.genericSignal frame) := by
  rw [decodeFrame, firstAccepted_eq_findSome?, registry, List.findSome?_map]
  rfl

/-- Settles O31: the search answers an event exactly if it finds it at its first success, or finds none and the event
is the default. -/
theorem firstSuccessfulAttemptWins : Obligations.FirstSuccessfulAttemptWins := by
  refine ⟨fun c frame ev => ?_, rfl⟩
  rw [decodeFrame_eq_findSome?, Option.getD_eq_iff, List.findSome?_eq_some_iff, List.findSome?_eq_none_iff]
  simp only [toOption_eq_some_iff_ok, toOption_eq_none_iff_error, eq_comm (a := ev)]

end Sys2Proof.Machine
end

section
/-!
The field check family (43_field_check.md): the switch string and its three fields (R200 to R203), the thermometer
string and its fields (R204 to R207), and the temperature (R208).
-/

namespace Sys2Proof.Machine

/-! ### The switch string (R200, R202, R203) -/

theorem except_bind_eq_ok {ε α β : Type} {x : Except ε α} {f : α → Except ε β} {b : β} :
    x >>= f = .ok b ↔ ∃ a, x = .ok a ∧ f a = .ok b := by
  cases x <;> simp [bind, Except.bind]

/-- The first bits and the slice that follows them are again the first bits. -/
theorem take_append_bitSlice {b : List Bool} {i j : Nat} (h : i ≤ j + 1) :
    b.take i ++ bitSlice b i j = b.take (j + 1) := by
  rw [bitSlice, ← List.take_add, Nat.add_sub_cancel' h]

/-- The first ten bits are the five channel pairs in order (R86). -/
theorem take_ten_eq_channel_pairs (b : List Bool) :
    b.take 10 = bitSlice b 0 1 ++ bitSlice b 2 3 ++ bitSlice b 4 5 ++ bitSlice b 6 7 ++ bitSlice b 8 9 := by
  rw [show bitSlice b 0 1 = b.take 2 from rfl, take_append_bitSlice (by decide), take_append_bitSlice (by decide),
    take_append_bitSlice (by decide), take_append_bitSlice (by decide)]

/-- The channels of a string are accepted exactly if its first ten bits are the channel codes of the mask (R200). -/
theorem switchChannels_eq_ok {c : Config} {b : List Bool} {mask : BitVec 5} :
    switchChannels c b = .ok mask ↔ b.take 10 = channelString c.channelPolarity mask := by
  constructor
  · intro h
    simp only [switchChannels, except_bind_eq_ok, channelState_eq_ok, pure, Except.pure, Except.ok.injEq] at h
    obtain ⟨c0, h0, c1, h1, c2, h2, c3, h3, c4, h4, rfl⟩ := h
    obtain ⟨e0, e1, e2, e3, e4⟩ := packChannels_getLsbD c0 c1 c2 c3 c4
    rw [take_ten_eq_channel_pairs, h0, h1, h2, h3, h4, channelString, e0, e1, e2, e3, e4]
  · intro h
    rw [← List.take_append_drop 10 b, h]
    exact switchChannels_channelString c mask _

/-- A 24-bit string is the layout of a command exactly if its three fields are the command's codes (R86). -/
theorem eq_switchString_iff {p : ChannelPolarity} {b : List Bool} {mask : BitVec 5} {x : Button} {on : Bool}
    (hb : b.length = 24) :
    b = switchString p mask x on ↔
      b.take 10 = channelString p mask ∧ bitSlice b 10 19 = buttonBits x ∧ bitSlice b 20 23 = powerBits on := by
  constructor
  · rintro rfl
    have hc := channelString_length p mask
    have hx := buttonBits_length x
    refine ⟨?_, bitSlice_button hc hx, bitSlice_power hc hx (powerBits_length on)⟩
    rw [switchString, List.append_assoc, List.take_left' hc]
  · rintro ⟨hc, hx, hp⟩
    rw [switchString, ← hc, ← hx, ← hp, take_append_bitSlice (by decide), take_append_bitSlice (by decide),
      List.take_of_length_le hb.le]

/-- The three steps accept exactly the three fields of a command's layout, and give that command (R203). -/
theorem switchFields_eq_ok {c : Config} {b : List Bool} {ev : Event} (hb : b.length = 24) :
    switchFields c b = .ok ev ↔
      ∃ mask x on, ev = .switchCommand mask x on ∧ b = switchString c.channelPolarity mask x on := by
  have hbtn : (bitSlice b 10 19).length = 10 := bitSlice_length (by omega) (by decide)
  simp only [switchFields, except_bind_eq_ok, switchChannels_eq_ok, switchButton_eq_ok hbtn, switchPower_eq_ok,
    eq_switchString_iff hb, pure, Except.pure, Except.ok.injEq, ← exists_and_left, eq_comm (b := ev)]
  refine exists_congr fun mask => exists_congr fun x => exists_congr fun on => ?_
  tauto

/-- Settles O34: a command names its mask, button and power, so the accepted strings are the layouts. -/
theorem switchFieldsInvertTheLayout : Obligations.SwitchFieldsInvertTheLayout := by
  refine fun c b hb => ⟨fun mask x p => ?_, fun hne => ?_⟩
  · rw [switchFields_eq_ok hb]
    constructor
    · rintro ⟨_, _, _, ⟨⟩, h⟩
      exact h
    · exact fun h => ⟨mask, x, p, rfl, h⟩
  · cases h : switchFields c b with
    | error r => exact ⟨r, rfl⟩
    | ok ev =>
      obtain ⟨mask, x, p, -, hlayout⟩ := (switchFields_eq_ok hb).1 h
      exact absurd hlayout (hne mask x p)

/-! ### The thermometer string (R204 to R207) -/

theorem bitsOf_ofBoolListBE (s : List Bool) : bitsOf (BitVec.ofBoolListBE s) = s := by
  refine List.ext_getElem (bitsOf_length _) fun i _ hi => ?_
  simp [bitsOf, BitVec.getMsbD_ofBoolListBE, hi]

/-- Every string is the string of a code as wide as it is long (R62). -/
theorem exists_bitsOf_eq {n : Nat} {s : List Bool} (h : s.length = n) : ∃ w : BitVec n, bitsOf w = s := by
  subst h
  exact ⟨_, bitsOf_ofBoolListBE s⟩

theorem thermId_bitsOf {id : BitVec 8} (h : bitsOf id ≠ List.replicate 8 true) : thermId (bitsOf id) = .ok id := by
  rw [thermId_eq_ok h, bitsValue_bitsOf_eight, BitVec.ofNat_toNat, BitVec.setWidth_eq]

theorem thermMag_of_bitsOf {b : List Bool} {mag : BitVec 7} (h : bitsOf mag = bitSlice b 9 15) : thermMag b = mag := by
  rw [thermMag, ← h, bitsValue_bitsOf_seven, BitVec.ofNat_toNat, BitVec.setWidth_eq]

theorem thermTenths_of_bitsOf {b : List Bool} {tenths : BitVec 4} (h : bitsOf tenths = bitSlice b 20 23) :
    thermTenths b = tenths := by
  rw [thermTenths, ← h, bitsValue_bitsOf_four, BitVec.ofNat_toNat, BitVec.setWidth_eq]

/-- `ThermFields` answers the reject of `ThermId` (R209). -/
theorem thermFields_of_thermId_error {b : List Bool} {r : Reject} (h : thermId (bitSlice b 0 7) = .error r) :
    thermFields b = .error r := by
  rw [thermFields, h]
  rfl

theorem thermFields_of_thermId_ok {b : List Bool} {id : BitVec 8} (h : thermId (bitSlice b 0 7) = .ok id) :
    thermFields b = .ok (.thermometerReading id (bitAt b 8) (thermMag b) (thermTenths b)
      (decide (bitSlice b 16 19 ≠ [false, false, false, false]))) := by
  rw [thermFields, h]
  rfl

/-- Settles O35: only the marker stops `ThermId`, and each numeric field is the code that its bits spell. -/
theorem thermometerFieldsAreTheirBits : Obligations.ThermometerFieldsAreTheirBits := by
  refine fun b hb => ⟨fun hmark => ?_, fun hid => ?_⟩
  · have hr : thermId (bitSlice b 0 7) = .error .idff := by
      rw [hmark]
      exact thermId_marker
    exact ⟨_, thermFields_of_thermId_error hr⟩
  · obtain ⟨id, eid⟩ := exists_bitsOf_eq (bitSlice_length (b := b) (i := 0) (j := 7) (by omega) (by decide))
    obtain ⟨mag, emag⟩ := exists_bitsOf_eq (bitSlice_length (b := b) (i := 9) (j := 15) (by omega) (by decide))
    obtain ⟨tenths, et⟩ := exists_bitsOf_eq (bitSlice_length (b := b) (i := 20) (j := 23) (by omega) (by decide))
    have hok : thermId (bitSlice b 0 7) = .ok id := by
      rw [← eid] at hid ⊢
      exact thermId_bitsOf hid
    refine ⟨id, mag, tenths, ?_, eid, emag, et⟩
    rw [thermFields_of_thermId_ok hok, thermMag_of_bitsOf emag, thermTenths_of_bitsOf et]

/-! ### The temperature (R208) -/

/-- Settles O43: the magnitude is at most 127 and the tenths digit at most 15, so the value is at most 1285 in size,
within the range of 16 bits. -/
theorem temperatureIsExactSignedTenths : Obligations.TemperatureIsExactSignedTenths := by
  intro sign mag tenths
  have hmag := mag.isLt
  have htenths := tenths.isLt
  have hexact : (thermValue sign mag tenths).toInt =
      if sign then -((mag.toNat : Int) * 10 + tenths.toNat) else (mag.toNat : Int) * 10 + tenths.toNat := by
    apply BitVec.toInt_ofInt_eq_self (by decide) <;> split <;> omega
  refine ⟨hexact, ?_⟩
  rw [hexact]
  split <;> omega

end Sys2Proof.Machine
end

section
/-!
The exceptions family (60_exceptions.md): no word of the port stops the block (R240). The invariant is taken apart into
what no port operation changes, the record shown, and the framing; each port operation keeps every part.
-/

namespace Sys2Proof.Machine

/-! ### The record of an event (R92) -/

/-- The values R92 allows in the output record, and its sizes. -/
structure OutRecord.Legal (c : Config) (o : OutRecord) : Prop where
  frame_size : o.gFrame.length = c.maxAccum
  frame_length : o.gLen < countBound c
  kind_legal : o.evValid = true → o.kind ≠ .reserved
  button_legal : o.evValid = true → o.kind = .switch → o.swBtn.toNat ≤ 4
  id_legal : o.evValid = true → o.kind = .thermo → o.thId ≠ 0xFF

/-- An event whose record is legal: no reading has the reserved ID (R91), and a frame passed through fits `g_frame`. -/
def Event.Legal (c : Config) : Event → Prop
  | .switchCommand _ _ _ => True
  | .thermometerReading id _ _ _ _ => id ≠ 0xFF
  | .genericSignal frame => frame.length ≤ c.maxAccum

theorem openRecord_legal (c : Config) (n : Nat) : (openRecord c n).Legal c where
  frame_size := openRecord_gFrame_length c n
  frame_length := openRecord_gLen c n
  kind_legal := nofun
  button_legal := nofun
  id_legal := nofun

theorem Button.index_le_four (x : Button) : x.index.toNat ≤ 4 := by cases x <;> decide

theorem eventRecord_legal {c : Config} {ev : Event} (n : Nat) (h : ev.Legal c) : (eventRecord c n ev).Legal c where
  frame_size := eventRecord_gFrame_length c n ev
  frame_length := eventRecord_gLen c n ev fun _ hf => by subst hf; exact h
  kind_legal _ := eventRecord_kind_legal c n ev
  button_legal _ hk := by
    cases ev with
    | switchCommand mask x on => exact x.index_le_four
    | thermometerReading | genericSignal => cases hk
  id_legal _ hk := by
    cases ev with
    | thermometerReading => exact h
    | switchCommand | genericSignal => cases hk

/-- `ThermId` rejects the marker, so no ID it gives is the reserved one (R204). -/
theorem thermId_ok_ne_reserved {f : List Bool} {id : BitVec 8} (hf : f.length = 8) (h : thermId f = .ok id) :
    id ≠ 0xFF := by
  obtain ⟨w, rfl⟩ := exists_bitsOf_eq hf
  have hw : bitsOf w ≠ List.replicate 8 true := by
    intro hmark
    rw [hmark, thermId_marker] at h
    cases h
  rw [thermId_bitsOf hw] at h
  cases h
  rintro rfl
  exact hw (by decide)

/-- The field rules give legal events only (R175, R203, R209). -/
theorem layoutFields_ok_legal {c : Config} {l : Layout} {b : List Bool} {ev : Event} (h : layoutFields c l b = .ok ev) :
    ev.Legal c := by
  have hb := layoutBits_length b
  cases l with
  | switch =>
    simp only [layoutFields, switchFields, except_bind_eq_ok] at h
    obtain ⟨mask, -, x, -, on, -, h⟩ := h
    cases h
    trivial
  | therm =>
    simp only [layoutFields, thermFields, except_bind_eq_ok] at h
    obtain ⟨id, hid, h⟩ := h
    cases h
    exact thermId_ok_ne_reserved (bitSlice_length (by omega) (by decide)) hid

/-- The classifier gives a legal event of every frame that fits the record: an accepted one, or the frame itself. -/
theorem decodeFrame_legal {c : Config} {frame : List Dur} (h : frame.length ≤ c.maxAccum) :
    (decodeFrame c frame).Legal c := by
  obtain ⟨_, n, _, -, hok, -⟩ | ⟨-, hgen⟩ := (firstSuccessfulAttemptWins.1 c frame _).1 rfl
  · obtain ⟨-, -, b, -, hfields⟩ := tryProtocol_eq_ok.1 hok
    exact layoutFields_ok_legal hfields
  · rw [hgen]
    exact h

/-- The record of an emission is legal: the frame handed on fits the buffer it was taken from. -/
theorem emitted_legal {c : Config} {buf : List Dur} (hb : buf.length = c.maxAccum) (n k : Nat) :
    (eventRecord c n (decodeFrame c (buf.take k))).Legal c :=
  eventRecord_legal n (decodeFrame_legal (hb ▸ List.length_take_le' k buf))

/-! ### The framing (R31 to R34, R153, R156) -/

/-- The first `n` entries are a long pulse and then data pulses: what an accumulation and a held frame are (R153). -/
structure SyncThenData (c : Config) (l : List Dur) (n : Nat) : Prop where
  sync : isLong c (l.getD 0 0) = true
  data : ∀ i, 1 ≤ i → i < n → isLong c (l.getD i 0) = false

section SyncThenData
variable {c : Config} {l : List Dur} {n : Nat} {d : Dur}

theorem SyncThenData.start (hl : 0 < l.length) (hd : isLong c d = true) : SyncThenData c (l.set 0 d) 1 where
  sync := by simpa [List.getD_eq_getElem?_getD, hl] using hd
  data := by omega

theorem SyncThenData.append (h : SyncThenData c l n) (hn : 1 ≤ n) (hl : n < l.length) (hd : isLong c d = false) :
    SyncThenData c (l.set n d) (n + 1) where
  sync := by simpa [List.getD_eq_getElem?_getD, List.getElem?_set_ne (show n ≠ 0 by omega)] using h.sync
  data i hi hin := by
    by_cases he : i = n
    · subst he
      simpa [List.getD_eq_getElem?_getD, hl] using hd
    · simpa [List.getD_eq_getElem?_getD, List.getElem?_set_ne (Ne.symm he)] using h.data i hi (by omega)

theorem getD_take_append {m : List Dur} {i : Nat} (hi : i < n) (hl : n ≤ l.length) :
    (l.take n ++ m).getD i 0 = l.getD i 0 := by
  simp [List.getD_eq_getElem?_getD, List.getElem?_append, hi, show i < l.length by omega]

/-- The frame copied to the front of another buffer (R145). -/
theorem SyncThenData.copy {m : List Dur} (h : SyncThenData c l n) (hn : 1 ≤ n) (hl : n ≤ l.length) :
    SyncThenData c (l.take n ++ m) n where
  sync := by rw [getD_take_append hn hl]; exact h.sync
  data i hi hin := by rw [getD_take_append hin hl]; exact h.data i hi hin

end SyncThenData

/-- The accumulation in the first `cnt` entries of `buf` (R32, R33, R153). -/
structure Accumulating (c : Config) (buf : List Dur) (cnt : Nat) : Prop where
  pos : 1 ≤ cnt
  fits : cnt ≤ c.maxAccum
  pulses : SyncThenData c buf cnt

/-- The first frame, in the first `flen` entries of `fbuf`, waiting for its repeat, which begins with the pulse `sync`
(R34, R145, R156). -/
structure HoldsFirstFrame (c : Config) (fbuf : List Dur) (flen : Nat) (sync : Dur) : Prop where
  mode : c.confirmMode = .double
  known : lenKnown c flen = true
  pulses : SyncThenData c fbuf flen
  tolerance : repeatMatch c sync (fbuf.getD 0 0) = true

/-- What each framing state says of the buffers and counts (R31, R44). -/
def FramingLegal (s : State) : Prop :=
  match s.st with
  | .idle => s.cnt = 0 ∧ s.flen = 0
  | .accum => Accumulating s.cfg s.buf s.cnt ∧ s.flen = 0
  | .repeatPending => Accumulating s.cfg s.buf s.cnt ∧ HoldsFirstFrame s.cfg s.fbuf s.flen (bufRead s 0)
  | .code3 => False

section FramingLegal
variable {s : State}

theorem framingLegal_idle (hst : s.st = .idle) : FramingLegal s ↔ s.cnt = 0 ∧ s.flen = 0 := by
  simp only [FramingLegal, hst]

theorem framingLegal_accum (hst : s.st = .accum) :
    FramingLegal s ↔ Accumulating s.cfg s.buf s.cnt ∧ s.flen = 0 := by
  simp only [FramingLegal, hst]

theorem framingLegal_repeatPending (hst : s.st = .repeatPending) :
    FramingLegal s ↔
      Accumulating s.cfg s.buf s.cnt ∧ HoldsFirstFrame s.cfg s.fbuf s.flen (bufRead s 0) := by
  simp only [FramingLegal, hst]

theorem Inv.accumulating (h : Inv s) (hb : s.Busy) : Accumulating s.cfg s.buf s.cnt where
  pos := (h.busy_count hb).1
  fits := (h.busy_count hb).2
  pulses := ⟨h.busy_sync hb, h.busy_data hb⟩

theorem Inv.holdsFirstFrame (h : Inv s) (hst : s.st = .repeatPending) :
    HoldsFirstFrame s.cfg s.fbuf s.flen (bufRead s 0) where
  mode := h.pending_mode hst
  known := h.pending_length hst
  pulses := ⟨h.pending_sync hst, h.pending_data hst⟩
  tolerance := h.pending_tolerance hst

theorem Inv.framingLegal (h : Inv s) : FramingLegal s := by
  cases hst : s.st with
  | idle => exact (framingLegal_idle hst).2 ⟨h.idle_count hst, h.flen_zero (by simp [hst])⟩
  | accum => exact (framingLegal_accum hst).2 ⟨h.accumulating (.inl hst), h.flen_zero (by simp [hst])⟩
  | repeatPending =>
    exact (framingLegal_repeatPending hst).2 ⟨h.accumulating (.inr hst), h.holdsFirstFrame hst⟩
  | code3 => exact absurd hst h.st_legal

/-- The framing of the invariant, read back from the framing state. -/
theorem FramingLegal.of_state (h : FramingLegal s) :
    s.st ≠ .code3 ∧ (s.st = .idle → s.cnt = 0) ∧ (s.Busy → Accumulating s.cfg s.buf s.cnt) ∧
      (s.st = .repeatPending → HoldsFirstFrame s.cfg s.fbuf s.flen (bufRead s 0)) ∧
      (s.st ≠ .repeatPending → s.flen = 0) := by
  unfold FramingLegal at h
  cases hst : s.st <;> simp_all [State.Busy]

end FramingLegal

/-! ### The invariant, part by part -/

/-- A state meets the invariant once its configuration, sizes and locals are those of a state that does, and its record
and its framing are legal. -/
theorem Inv.of_parts {s t : State} (h : Inv s) (hcfg : t.cfg = s.cfg) (hatt : t.att = s.att)
    (hbuf : t.buf.length = s.buf.length) (hfbuf : t.fbuf.length = s.fbuf.length) (ho : t.out.Legal s.cfg)
    (hf : FramingLegal t) : Inv t := by
  obtain ⟨hcode, hidle, hbusy, hpend, hflen⟩ := hf.of_state
  rw [← hcfg] at ho
  exact {
    config_legal := hcfg ▸ h.config_legal
    st_legal := hcode
    idle_count := hidle
    busy_count := fun hb => ⟨(hbusy hb).pos, (hbusy hb).fits⟩
    busy_sync := fun hb => (hbusy hb).pulses.sync
    busy_data := fun hb => (hbusy hb).pulses.data
    pending_mode := fun hp => (hpend hp).mode
    pending_length := fun hp => (hpend hp).known
    pending_sync := fun hp => (hpend hp).pulses.sync
    pending_data := fun hp => (hpend hp).pulses.data
    pending_tolerance := fun hp => (hpend hp).tolerance
    flen_zero := hflen
    buf_size := by rw [hbuf, hcfg, h.buf_size]
    fbuf_size := by rw [hfbuf, hcfg, h.fbuf_size]
    frame_size := ho.frame_size
    frame_length := ho.frame_length
    kind_legal := ho.kind_legal
    button_legal := ho.button_legal
    id_legal := ho.id_legal
    local_id_legal := by rw [hatt]; exact h.local_id_legal }

theorem Inv.out_legal {s : State} (h : Inv s) : s.out.Legal s.cfg :=
  ⟨h.frame_size, h.frame_length, h.kind_legal, h.button_legal, h.id_legal⟩

/-- The invariant says nothing of the words to come. -/
theorem Inv.withInput {s : State} (h : Inv s) (words : List InputWord) : Inv { s with input := words } :=
  h.of_parts rfl rfl rfl rfl h.out_legal h.framingLegal

section PortOps
variable {s : State} {d : Dur}

theorem Inv.buf_pos (h : Inv s) : 0 < s.buf.length := by
  obtain ⟨hknown, hodd, -⟩ := row_legal h.config_legal .switch
  have hfits := known_length_fits h.config_legal hknown
  rw [h.buf_size]
  omega

theorem Inv.accumulating_start (h : Inv s) (hl : s.cfg.longMinUs < d.toNat) : Accumulating s.cfg (s.buf.set 0 d) 1 where
  pos := le_rfl
  fits := h.buf_size ▸ h.buf_pos
  pulses := .start h.buf_pos (isLong_eq_true.2 hl)

theorem Inv.accumulating_append (h : Inv s) (hb : s.Busy) (hl : ¬ s.cfg.longMinUs < d.toNat)
    (hc : s.cnt < s.cfg.maxAccum) :
    Accumulating s.cfg (s.buf.set s.cnt d) (s.cnt + 1) where
  pos := Nat.le_add_left 1 _
  fits := hc
  pulses := (h.accumulating hb).pulses.append (h.accumulating hb).pos (h.buf_size ▸ hc) (isLong_eq_false.2 hl)

/-- In IDLE a long pulse starts an accumulation, and any other is ignored (R142). -/
theorem exec_pulse_idle_keeps_inv (h : Inv s) (hst : s.st = .idle) : ∃ t, exec (.pulse d) s = .next t ∧ Inv t := by
  obtain ⟨-, hflen⟩ := (framingLegal_idle hst).1 h.framingLegal
  by_cases hl : s.cfg.longMinUs < d.toNat
  · exact ⟨_, exec_pulse_start hst hl, h.of_parts rfl rfl List.length_set rfl (openRecord_legal _ _)
      ((framingLegal_accum rfl).2 ⟨h.accumulating_start hl, hflen⟩)⟩
  · exact ⟨_, exec_pulse_ignored hst hl, h.of_parts rfl rfl rfl rfl (openRecord_legal _ _) h.framingLegal⟩

/-- The frame that begins its repeat is held: its entries are copied, and the new sync pulse is within the tolerance of
its own (R145). -/
theorem Inv.holds_bufFrame (h : Inv s) (hb : s.Busy) (hm : s.cfg.confirmMode = .double)
    (hq : s.cnt ∈ s.cfg.frameLengths ∧ absDiff d (bufRead s 0) ≤ s.cfg.repeatTolUs) (rest : List Dur) :
    HoldsFirstFrame s.cfg (s.buf.take s.cnt ++ rest) s.cnt ((s.buf.set 0 d).getD 0 0) := by
  obtain ⟨hpos, hfits, hpulses⟩ := h.accumulating hb
  rw [← h.buf_size] at hfits
  refine ⟨hm, lenKnown_eq_true.2 hq.1, hpulses.copy hpos hfits, ?_⟩
  have hd : (s.buf.set 0 d).getD 0 0 = d := by simp [List.getD_eq_getElem?_getD, h.buf_pos]
  rw [hd, getD_take_append hpos hfits]
  exact repeatMatch_eq_true.2 hq.2

/-- In ACCUM (R143 to R146): the accumulation grows or is discarded by a data pulse; a long pulse emits it, holds it, or
restarts it. -/
theorem exec_pulse_accum_keeps_inv (h : Inv s) (hst : s.st = .accum) : ∃ t, exec (.pulse d) s = .next t ∧ Inv t := by
  obtain ⟨hacc, hflen⟩ := (framingLegal_accum hst).1 h.framingLegal
  by_cases hl : s.cfg.longMinUs < d.toNat
  · by_cases hq : s.cnt ∈ s.cfg.frameLengths ∧ absDiff d (bufRead s 0) ≤ s.cfg.repeatTolUs
    · cases hm : s.cfg.confirmMode with
      | singleShot =>
        exact ⟨_, exec_pulse_emit hst hl hq hm, h.of_parts rfl rfl rfl rfl (emitted_legal h.buf_size _ _)
          ((framingLegal_idle rfl).2 ⟨rfl, hflen⟩)⟩
      | double =>
        refine ⟨_, exec_pulse_hold hst hl hq hm, h.of_parts rfl rfl List.length_set ?_ (openRecord_legal _ _)
          ((framingLegal_repeatPending rfl).2 ⟨h.accumulating_start hl, h.holds_bufFrame (.inl hst) hm hq _⟩)⟩
        have hfits := hacc.fits
        simp [doubleFirst, bufFrame, h.buf_size, h.fbuf_size, hfits]
    · exact ⟨_, exec_pulse_restart hst hl hq, h.of_parts rfl rfl List.length_set rfl (openRecord_legal _ _)
        ((framingLegal_accum (s := startAccum d (clearEvent s)) hst).2 ⟨h.accumulating_start hl, hflen⟩)⟩
  · by_cases hc : s.cnt < s.cfg.maxAccum
    · exact ⟨_, exec_pulse_append hst hl hc, h.of_parts rfl rfl List.length_set rfl (openRecord_legal _ _)
        ((framingLegal_accum (s := appendPulse d (clearEvent s)) hst).2
          ⟨h.accumulating_append (.inl hst) hl hc, hflen⟩)⟩
    · exact ⟨_, exec_pulse_overflow hst hl hc, h.of_parts rfl rfl rfl rfl (openRecord_legal _ _)
        ((framingLegal_idle rfl).2 ⟨rfl, hflen⟩)⟩

/-- In REPEAT_PENDING (R147, R148): the repeat grows or both frames are discarded by a data pulse; a long pulse emits
the first frame, or discards both and starts over. -/
theorem exec_pulse_repeatPending_keeps_inv (h : Inv s) (hst : s.st = .repeatPending) :
    ∃ t, exec (.pulse d) s = .next t ∧ Inv t := by
  obtain ⟨hacc, hheld⟩ := (framingLegal_repeatPending hst).1 h.framingLegal
  by_cases hl : s.cfg.longMinUs < d.toNat
  · by_cases hq : s.cnt = s.flen ∧ absDiff d (bufRead s 0) ≤ s.cfg.repeatTolUs
    · exact ⟨_, exec_pulse_confirm hst hl hq, h.of_parts rfl rfl rfl rfl (emitted_legal h.fbuf_size _ _)
        ((framingLegal_idle rfl).2 ⟨rfl, rfl⟩)⟩
    · exact ⟨_, exec_pulse_discard hst hl hq, h.of_parts rfl rfl List.length_set rfl (openRecord_legal _ _)
        ((framingLegal_accum rfl).2 ⟨h.accumulating_start hl, rfl⟩)⟩
  · by_cases hc : s.cnt < s.cfg.maxAccum
    · have hsync : bufRead (appendPulse d (clearEvent s)) 0 = bufRead s 0 := by
        have hne : s.cnt ≠ 0 := Nat.one_le_iff_ne_zero.1 hacc.pos
        simp [bufRead, List.getD_eq_getElem?_getD, List.getElem?_set_ne hne]
      exact ⟨_, exec_pulse_repeatAppend hst hl hc, h.of_parts rfl rfl List.length_set rfl (openRecord_legal _ _)
        ((framingLegal_repeatPending (s := appendPulse d (clearEvent s)) hst).2
          ⟨h.accumulating_append (.inr hst) hl hc, hsync.symm ▸ hheld⟩)⟩
    · exact ⟨_, exec_pulse_repeatOverflow hst hl hc, h.of_parts rfl rfl rfl rfl (openRecord_legal _ _)
        ((framingLegal_idle rfl).2 ⟨rfl, rfl⟩)⟩

theorem exec_pulse_keeps_inv (h : Inv s) : ∃ t, exec (.pulse d) s = .next t ∧ Inv t := by
  cases hst : s.st with
  | idle => exact exec_pulse_idle_keeps_inv h hst
  | accum => exact exec_pulse_accum_keeps_inv h hst
  | repeatPending => exact exec_pulse_repeatPending_keeps_inv h hst
  | code3 => exact absurd hst h.st_legal

/-- RESET leaves `flen` alone in SINGLE_SHOT mode, where no frame is held (R150). -/
theorem exec_reset_keeps_inv (h : Inv s) (vld : Bool) : ∃ t, exec (.reset vld d) s = .next t ∧ Inv t := by
  refine ⟨_, exec_reset vld d s, h.of_parts rfl rfl rfl rfl (openRecord_legal _ _)
    ((framingLegal_idle rfl).2 ⟨rfl, ?_⟩)⟩
  by_cases hm : s.cfg.confirmMode = .double
  · exact if_pos hm
  · exact (if_neg hm).trans (h.flen_zero fun hp => hm (h.pending_mode hp))

theorem exec_nop_keeps_inv (h : Inv s) : ∃ t, exec (.nop d) s = .next t ∧ Inv t :=
  ⟨_, exec_nop d s, h.of_parts rfl rfl rfl rfl (openRecord_legal _ _) h.framingLegal⟩

end PortOps

/-- A port operation has a next state in every state of the invariant, and keeps the invariant (R240, R44). -/
theorem portOp_keeps_inv {i : Instr} {s : State} (hi : isPortOp i = true) (h : Inv s) :
    ∃ t, exec i s = .next t ∧ Inv t := by
  cases i <;> simp only [isPortOp, Bool.false_eq_true] at hi
  case reset vld _ => exact exec_reset_keeps_inv h vld
  case pulse => exact exec_pulse_keeps_inv h
  case nop => exact exec_nop_keeps_inv h

/-! ### Words and runs (R5, R240, R253) -/

theorem isPortOp_decode_portWord {w : InputWord} (hw : isPortWord w = true) : isPortOp (decode w) = true := by
  cases w <;> simp only [isPortWord, Bool.false_eq_true] at hw
  case port w =>
    rw [← encodePort_of_fields w, decode_encodePort]
    split
    · rfl
    · split <;> rfl

/-- Taking the duration at the port's width leaves the operation what it is. -/
@[simp] theorem isPortOp_portOperand (c : Config) (i : Instr) : isPortOp (portOperand c i) = isPortOp i := by
  cases i <;> rfl

theorem Inv.stopReason_eq_none {s : State} (h : Inv s) : stopReason s = none :=
  Machine.stopReason_eq_none.2 ⟨h.st_legal, h.config_legal, fun ⟨hvalid, hkind⟩ => h.kind_legal hvalid hkind⟩

/-- The step that consumes a port word goes on, keeps the invariant and leaves the words after it (R240). -/
theorem step_portWord {s : State} {w : InputWord} (h : Inv s) (hw : isPortWord w = true) (rest : List InputWord) :
    ∃ t, step { s with input := w :: rest } = .next t ∧ t.input = rest ∧ Inv t := by
  have hi : isPortOp (portOperand s.cfg (decode w)) = true := by
    rw [isPortOp_portOperand]
    exact isPortOp_decode_portWord hw
  obtain ⟨t, ht, hinv⟩ := portOp_keeps_inv hi (h.withInput rest)
  exact ⟨t, (step_of_stopReason_none (h.withInput (w :: rest)).stopReason_eq_none).trans ht,
    (portOp_frame hi ht).1.input, hinv⟩

theorem core_run_succ {M : Host.Core} {k : Nat} {s t : M.State} (h : M.step s = .next t) :
    M.run (k + 1) s = M.run k t := by
  rw [Host.Core.run, h]

/-- The run of a list of port words and its records, together: the last record, or before any word the one already
shown, is that of the state the run ends in. -/
theorem run_portWords {words : List InputWord} : ∀ {s : State}, Inv s → (∀ w ∈ words, isPortWord w = true) →
    ∃ t, Host.Core.run core words.length { s with input := words } = .next t ∧ t.input = [] ∧ Inv t ∧
      ∃ outs, outputs words s = .next outs ∧ outs.length = words.length ∧ outs.getLastD s.out = t.out := by
  induction words with
  | nil => exact fun {s} h _ => ⟨{ s with input := [] }, rfl, rfl, h.withInput [], [], rfl, rfl, rfl⟩
  | cons w rest ih =>
    intro s h hw
    obtain ⟨hw, hrest⟩ := List.forall_mem_cons.1 hw
    obtain ⟨u, hstep, rfl, hu⟩ := step_portWord h hw rest
    obtain ⟨t, hrun, hin, ht, outs, houts, hlen, hlast⟩ := ih hu hrest
    exact ⟨t, (core_run_succ (M := core) hstep).trans hrun, hin, ht, u.out :: outs, outputs_cons hstep houts,
      congrArg (· + 1) hlen, List.getLastD_cons.trans hlast⟩

/-- Settles O60, by induction on the words: a list of at least one word has a last record. -/
theorem portSequencesNeverStop : Obligations.PortSequencesNeverStop := by
  intro s words h hw
  obtain ⟨t, hrun, hin, ht, outs, houts, hlen, hlast⟩ := run_portWords h hw
  refine ⟨t, hrun, hin, ht, outs, houts, hlen, fun hne => ?_⟩
  have hne' : outs ≠ [] := by
    rintro rfl
    exact hne (List.length_eq_zero_iff.1 hlen.symm)
  rw [List.getLast?_eq_some_getLast hne', ← hlast, List.getLastD_eq_getLast?, List.getLast?_eq_some_getLast hne',
    Option.getD_some]

end Sys2Proof.Machine
end

section
/-!
The encoding family, whole: the decoder and the encoder are inverse to each other (30_encoding.md sections 2 to 6), the
words written out in the tables, and what a step does with a word (R5, R140).
-/

namespace Sys2Proof.Machine

/-! ### The frames of 24 bits (R86, R90, R91) -/

@[simp] theorem decode_encodeSwitchFrame (chan btn : BitVec 10) (pwr : BitVec 4) :
    decode (.switchFrame (encodeSwitchFrame chan btn pwr)) = .swFrame chan btn pwr := by
  simp only [decode, decodeSwitchFrame, encodeSwitchFrame_chan, encodeSwitchFrame_btn, encodeSwitchFrame_pwr]

@[simp] theorem decode_encodeThermoFrame (id : BitVec 8) (sign : Bool) (mag : BitVec 7) (batt tenths : BitVec 4) :
    decode (.thermoFrame (encodeThermoFrame id sign mag batt tenths)) =
      if id = 0xFF then .thIdReserved sign mag batt tenths else .thFrame id sign mag batt tenths := by
  simp only [decode, decodeThermoFrame, encodeThermoFrame_id, encodeThermoFrame_sign, encodeThermoFrame_mag,
    encodeThermoFrame_batt, encodeThermoFrame_tenths]

/-! ### The rows "any other value" (R88, R89, R90) -/

theorem wellFormed_swBtnIllegal {code : BitVec 10} : WellFormed (.swBtnIllegal code) ↔ code ∉ legalButtonCodes := by
  simp [WellFormed, wellFormed]

theorem wellFormed_swPwrIllegal {code : BitVec 4} : WellFormed (.swPwrIllegal code) ↔ code ∉ legalPowerCodes := by
  simp [WellFormed, wellFormed]

theorem wellFormed_thFrame {id : BitVec 8} {sign : Bool} {mag : BitVec 7} {batt tenths : BitVec 4} :
    WellFormed (.thFrame id sign mag batt tenths) ↔ id ≠ 0xFF := by
  simp [WellFormed, wellFormed]

theorem wellFormed_thBattLow {code : BitVec 4} : WellFormed (.thBattLow code) ↔ code ≠ 0 := by
  simp [WellFormed, wellFormed]

theorem decodeButton_of_not_legal {code : BitVec 10} (h : code ∉ legalButtonCodes) :
    decodeButton code = .swBtnIllegal code := by
  simp only [legalButtonCodes, List.mem_cons, List.not_mem_nil, or_false, not_or] at h
  obtain ⟨ha, hb, hc, hd, he⟩ := h
  rw [decodeButton, if_neg ha, if_neg hb, if_neg hc, if_neg hd, if_neg he]

theorem decodePower_of_not_legal {code : BitVec 4} (h : code ∉ legalPowerCodes) :
    decodePower code = .swPwrIllegal code := by
  simp only [legalPowerCodes, List.mem_cons, List.not_mem_nil, or_false, not_or] at h
  obtain ⟨hon, hoff⟩ := h
  rw [decodePower, if_neg hon, if_neg hoff]

/-! ### The two directions -/

/-- Settles O1, row by row: a frame's fields come back one by one, and the operand of a row "any other value" is none
of the codes that the decoder tests for before it. -/
theorem decodeInvertsEncode : Obligations.DecodeInvertsEncode := by
  intro i h
  cases i with
  | reset | pulse | nop => exact decode_encodePort _ _ _
  | swFrame chan btn pwr => exact decode_encodeSwitchFrame chan btn pwr
  | swBtnIllegal code => exact decodeButton_of_not_legal (wellFormed_swBtnIllegal.1 h)
  | swPwrIllegal code => exact decodePower_of_not_legal (wellFormed_swPwrIllegal.1 h)
  | thFrame id sign mag batt tenths =>
    exact (decode_encodeThermoFrame id sign mag batt tenths).trans (if_neg (wellFormed_thFrame.1 h))
  | thIdReserved sign mag batt tenths => exact decode_encodeThermoFrame 0xFF sign mag batt tenths
  | thBattLow code => exact if_neg (wellFormed_thBattLow.1 h)
  | hpBit0 | hpBit1 | hpIllegalSS | hpIllegalLL | swChOn | swChOff | swChIllegal10 | swChIllegal11 | swBtnA | swBtnB
  | swBtnC | swBtnD | swBtnE | swPwrOn | swPwrOff | thBattOk | evSwitch | evThermo | evGeneric | evReserved => rfl

theorem halfPair_word_of_meaning :
    ∀ w, WellFormed (decode (.halfPair w)) ∧ encode (decode (.halfPair w)) = .halfPair w := by decide

theorem channel_word_of_meaning :
    ∀ j w, WellFormed (decode (.channel j w)) ∧ encode (decode (.channel j w)) = .channel j w := by decide

theorem eventKind_word_of_meaning :
    ∀ w, WellFormed (decode (.eventKind w)) ∧ encode (decode (.eventKind w)) = .eventKind w := by decide

theorem battery_word_of_meaning :
    ∀ w, WellFormed (decode (.battery w)) ∧ encode (decode (.battery w)) = .battery w := by decide

theorem power_word_of_meaning :
    ∀ w, WellFormed (decode (.power w)) ∧ encode (decode (.power w)) = .power w := by decide

theorem button_word_of_meaning (w : BitVec 10) :
    WellFormed (decode (.button w)) ∧ encode (decode (.button w)) = .button w := by
  by_cases h : w ∈ legalButtonCodes
  · simp only [legalButtonCodes, List.mem_cons, List.not_mem_nil, or_false] at h
    rcases h with rfl | rfl | rfl | rfl | rfl <;> exact ⟨rfl, rfl⟩
  · rw [decode, decodeButton_of_not_legal h]
    exact ⟨wellFormed_swBtnIllegal.2 h, rfl⟩

theorem port_word_of_meaning (w : PortWord) : WellFormed (decode (.port w)) ∧ encode (decode (.port w)) = .port w := by
  rw [← encodePort_of_fields w, decode_encodePort]
  cases w.getLsbD 33 with
  | true => exact ⟨rfl, rfl⟩
  | false => cases w.getLsbD 32 <;> exact ⟨rfl, rfl⟩

theorem switchFrame_word_of_meaning (w : BitVec 24) :
    WellFormed (decode (.switchFrame w)) ∧ encode (decode (.switchFrame w)) = .switchFrame w :=
  ⟨rfl, congrArg InputWord.switchFrame (encodeSwitchFrame_of_fields w)⟩

theorem thermoFrame_word_of_meaning (w : BitVec 24) :
    WellFormed (decode (.thermoFrame w)) ∧ encode (decode (.thermoFrame w)) = .thermoFrame w := by
  rw [← encodeThermoFrame_of_fields w, decode_encodeThermoFrame]
  by_cases hid : w.extractLsb' 16 8 = 0xFF
  · rw [if_pos hid, hid]
    exact ⟨rfl, rfl⟩
  · rw [if_neg hid]
    exact ⟨wellFormed_thFrame.2 hid, rfl⟩

/-- Settles O2, format by format. -/
theorem encodeInvertsDecode : Obligations.EncodeInvertsDecode := by
  intro w
  cases w with
  | port w => exact port_word_of_meaning w
  | halfPair w => exact halfPair_word_of_meaning w
  | channel j w => exact channel_word_of_meaning j w
  | button w => exact button_word_of_meaning w
  | power w => exact power_word_of_meaning w
  | switchFrame w => exact switchFrame_word_of_meaning w
  | thermoFrame w => exact thermoFrame_word_of_meaning w
  | battery w => exact battery_word_of_meaning w
  | eventKind w => exact eventKind_word_of_meaning w

/-- Settles O3: each word is one evaluation of the decoder. -/
theorem writtenOutWordsDecode : Obligations.WrittenOutWordsDecode := by
  unfold Obligations.WrittenOutWordsDecode
  decide

/-! ### The step (R5, R7, R31, R93, R140) -/

theorem fetchWord_of_cons {s : State} {w : InputWord} {rest : List InputWord} (h : s.input = w :: rest) :
    fetchWord s = (w, { s with input := rest }) := by
  simp only [fetchWord, h]

theorem fetchWord_of_nil {s : State} (h : s.input = []) : fetchWord s = (.port 0, s) := by
  simp only [fetchWord, h]

theorem step_of_stopReason_some {s : State} {stop : Host.Outcome State Fault Refusal} (h : stopReason s = some stop) :
    step s = stop := by
  simp only [step, h]

/-- A duration of zero is zero at every width. -/
theorem durOperand_zero (c : Config) : durOperand c 0 = 0 := by simp [durOperand]

/-- Settles O5: nothing stops the step, the word decodes to its instruction, and where nothing was sent the word of NOP
is consumed. -/
theorem stepRunsDecodedInstruction : Obligations.StepRunsDecodedInstruction := by
  intro s hcfg hst hkind
  have hstep := step_of_stopReason_none (stopReason_eq_none.2 ⟨hst, hcfg, hkind⟩)
  refine ⟨fun i rest hi hin => ?_, fun hin => ?_⟩
  · rw [fetchWord_of_cons hin, decodeInvertsEncode i hi] at hstep
    exact ⟨hstep, fun hw => by rw [hstep, portOperand_of_wide hw]⟩
  · rw [fetchWord_of_nil hin] at hstep
    rw [hstep, show decode (.port 0) = .nop 0 from rfl, portOperand, durOperand_zero]

/-- The two checks after the one for `st = 3` (R7, R93). -/
theorem stopReason_of_ne_code3 {s : State} (h : s.st ≠ .code3) :
    stopReason s =
      if configLegal s.cfg = false then some (.refused .illegalConfiguration)
      else if s.out.evValid = true ∧ s.out.kind = .reserved then some (.fault .reservedEventKind)
      else none := by
  unfold stopReason
  cases hst : s.st with
  | idle | accum | repeatPending => rfl
  | code3 => exact absurd hst h

/-- Settles O6, by the three checks of `stopReason` in their order. -/
theorem stepStopsOutsideSpecification : Obligations.StepStopsOutsideSpecification := by
  refine fun s => ⟨fun hst => ?_, fun hst hcfg => ?_, fun hst hcfg hvalid hkind => ?_⟩
  · exact step_of_stopReason_some (by simp only [stopReason, hst])
  · exact step_of_stopReason_some (by rw [stopReason_of_ne_code3 hst, if_pos hcfg])
  · exact step_of_stopReason_some
      (by rw [stopReason_of_ne_code3 hst, if_neg (by simp [hcfg]), if_pos ⟨hvalid, hkind⟩])

end Sys2Proof.Machine
end

section
/-!
The classifier on whole frames: the sync windows in pulse terms (R128), the checks of one attempt as a list (R211), and
the frames that decode to a command, to a reading or to a GenericSignal (R179 to R183, R213, R214).
-/

namespace Sys2Proof.Machine

/-! ### The sync windows (R128, R179) -/

/-- The window in sync-pulse terms: a truncated quotient is at most `syncMax` up to the next multiple (R128). -/
theorem syncInRange_delayOf {desc : Descriptor} {s : Dur} (hD : 1 ≤ desc.syncDivisor) :
    syncInRange desc (delayOf desc s) = true ↔ syncPulseMin desc ≤ s.toNat ∧ s.toNat ≤ syncPulseMax desc := by
  have hmax : s.toNat / desc.syncDivisor ≤ desc.syncMax ↔
      s.toNat < desc.syncMax * desc.syncDivisor + desc.syncDivisor := by
    rw [← Nat.lt_succ_iff, Nat.div_lt_iff_lt_mul hD, Nat.succ_mul]
  rw [syncInRange_eq_true, delayOf, Nat.le_div_iff_mul_le hD, hmax, syncPulseMin, syncPulseMax]
  omega

theorem hardware_switch_sync (s : Dur) :
    syncInRange Config.hardware.switchRow (delayOf Config.hardware.switchRow s) = true ↔
      9300 ≤ s.toNat ∧ s.toNat ≤ 12430 := syncInRange_delayOf (by decide)

theorem hardware_therm_sync (s : Dur) :
    syncInRange Config.hardware.thermARow (delayOf Config.hardware.thermARow s) = true ↔
      7750 ≤ s.toNat ∧ s.toNat ≤ 8090 := syncInRange_delayOf (by decide)

/-- Every row of this hardware has the divisor 31, so a delay of 500 is one range of sync pulses. -/
theorem hardware_delayOf (n : DescName) (s : Dur) : delayOf (Config.hardware.row n) s = s.toNat / 31 := by
  cases n <;> rfl

/-- This hardware's windows lie between the greatest data pulse and the delay 500. -/
theorem hardware_sync_bounds {n : DescName} {s : Dur}
    (h : syncInRange (Config.hardware.row n) (delayOf (Config.hardware.row n) s) = true) :
    7750 ≤ s.toNat ∧ s.toNat ≤ 12430 := by
  cases n with
  | switch => exact ((hardware_switch_sync s).1 h).imp_left (by omega)
  | thermA | thermB => exact ((hardware_therm_sync s).1 h).imp_right (by omega)

/-- Settles O11: the general window, and its bounds at this hardware's numbers. -/
theorem syncWindowInPulseTerms : Obligations.SyncWindowInPulseTerms := by
  refine ⟨fun desc s => syncInRange_delayOf, fun s =>
    ⟨hardware_switch_sync s, hardware_therm_sync s, hardware_therm_sync s, fun n hn => ?_, fun n => ?_⟩⟩
  · obtain ⟨hmin, hmax⟩ := hardware_sync_bounds hn
    rw [isLong_eq_true, hardware_delayOf]
    exact ⟨show 5000 < s.toNat by omega, by omega⟩
  · rw [hardware_delayOf]
    omega

/-- Ranges that meet nowhere share no sync pulse (R42 item 3). -/
theorem sync_excluded_of_disjoint {p q : Descriptor} {s : Dur} (hp : 1 ≤ p.syncDivisor) (hq : 1 ≤ q.syncDivisor)
    (hpq : rangesDisjoint p q = true) (h : syncInRange p (delayOf p s) = true) :
    syncInRange q (delayOf q s) = false := by
  obtain ⟨-, hwindows⟩ := rangesDisjoint_eq_true.1 hpq
  obtain ⟨hmin, hmax⟩ := (syncInRange_delayOf hp).1 h
  rw [← Bool.not_eq_true, syncInRange_delayOf hq]
  omega

/-! ### One attempt (R170, R211) -/

theorem exists_error_of_forall_ne_ok {α : Type} {x : Except Reject α} (h : ∀ a, x ≠ .ok a) : ∃ r, x = .error r := by
  cases x with
  | error r => exact ⟨r, rfl⟩
  | ok a => exact absurd rfl (h a)

/-- A switch row gives commands only (R203). -/
theorem switchFields_ok_command {c : Config} {b : List Bool} {ev : Event} (h : switchFields c b = .ok ev) :
    ∃ mask x on, ev = .switchCommand mask x on := by
  simp only [switchFields, except_bind_eq_ok] at h
  obtain ⟨mask, -, x, -, on, -, h⟩ := h
  cases h
  exact ⟨mask, x, on, rfl⟩

/-- The switch checks on the bits a row reads: five channel codes, a button code and a power code (R200 to R202). -/
theorem exists_switchFields_ok {c : Config} {b : List Bool} (hb : 20 ≤ b.length) :
    (∃ ev, switchFields c b = .ok ev) ↔
      (∀ j, j < 5 → ∃ on, bitSlice b (2 * j) (2 * j + 1) = channelBits c.channelPolarity on) ∧
      (∃ x, bitSlice b 10 19 = buttonBits x) ∧ ∃ on, bitSlice b 20 23 = powerBits on := by
  have hbtn : (bitSlice b 10 19).length = 10 := bitSlice_length (by omega) (by decide)
  constructor
  · rintro ⟨ev, h⟩
    simp only [switchFields, switchChannels, except_bind_eq_ok, channelState_eq_ok, switchButton_eq_ok hbtn,
      switchPower_eq_ok] at h
    obtain ⟨mask, ⟨c0, h0, c1, h1, c2, h2, c3, h3, c4, h4, -⟩, x, hx, on, hon, -⟩ := h
    refine ⟨fun j hj => ?_, ⟨x, hx⟩, on, hon⟩
    interval_cases j
    exacts [⟨c0, h0⟩, ⟨c1, h1⟩, ⟨c2, h2⟩, ⟨c3, h3⟩, ⟨c4, h4⟩]
  · rintro ⟨hch, ⟨x, hx⟩, on, hon⟩
    choose! on' hon' using hch
    refine ⟨.switchCommand (packChannels (on' 0) (on' 1) (on' 2) (on' 3) (on' 4)) x on, ?_⟩
    simp only [switchFields, switchChannels, except_bind_eq_ok, channelState_eq_ok, switchButton_eq_ok hbtn,
      switchPower_eq_ok]
    exact ⟨_, ⟨_, hon' 0 (by decide), _, hon' 1 (by decide), _, hon' 2 (by decide), _, hon' 3 (by decide), _,
      hon' 4 (by decide), rfl⟩, _, hx, _, hon, rfl⟩

theorem thermFields_of_marker {b : List Bool}
    (h : bitSlice b 0 7 = [true, true, true, true, true, true, true, true]) : thermFields b = .error .idff :=
  thermFields_of_thermId_error (h ▸ thermId_marker)

/-- The one thermometer check: the ID is not the marker (R204). -/
theorem exists_thermFields_ok {b : List Bool} :
    (∃ ev, thermFields b = .ok ev) ↔ bitSlice b 0 7 ≠ [true, true, true, true, true, true, true, true] := by
  constructor
  · rintro ⟨ev, h⟩ hmark
    cases (thermFields_of_marker hmark).symm.trans h
  · exact fun h => ⟨_, thermFields_of_thermId_ok (thermId_eq_ok h)⟩

/-- The bits of step 3 are those the frame spells, one for each of its pairs (R174). -/
theorem extractBits_eq_ok_iff_spells {desc : Descriptor} {frame : List Dur} {b : List Bool}
    (hodd : frame.length % 2 = 1) :
    extractBits desc frame = .ok b ↔ 2 * b.length + 1 = frame.length ∧ Spells desc frame b := by
  constructor
  · intro h
    have hlen := spellBits_length (desc := desc) h
    rw [pairSymbols_length, List.length_tail] at hlen
    have hb : 2 * b.length + 1 = frame.length := by omega
    exact ⟨hb, (extractBits_eq_ok hb.symm).1 h⟩
  · rintro ⟨hb, hs⟩
    exact (extractBits_eq_ok hb.symm).2 hs

/-- Settles O32: the four steps of an attempt, each as its row of the table (R211). -/
theorem checksumVerifierIsTheCheckList : Obligations.ChecksumVerifierIsTheCheckList := by
  intro c n frame hc hlayout
  obtain ⟨-, hodd, -⟩ := row_legal hc n
  simp only [tryProtocol_eq_ok, exists_and_left, syncInRange_eq_true]
  refine and_congr_right fun hlen => and_congr_right fun _ => ?_
  rw [exists_comm]
  refine exists_congr fun b => ?_
  rw [exists_and_left, extractBits_eq_ok_iff_spells (hlen ▸ hodd), and_assoc]
  refine and_congr_right fun hb => and_congr_right fun _ => ?_
  have hwhole : 49 ≤ frame.length → layoutBits b = b := fun h => layoutBits_of_length (by omega)
  have hread := layoutBits_length b
  rw [and_iff_left hwhole]
  cases n with
  | switch =>
    rw [hlayout]
    exact exists_switchFields_ok (by omega)
  | thermA | thermB =>
    rw [hlayout]
    exact exists_thermFields_ok

theorem layoutFields_switch {c : Config} {b : List Bool} (hb : b.length = 24) :
    layoutFields c .switch b = switchFields c b := congrArg (switchFields c) (layoutBits_of_length hb.ge)

theorem layoutFields_therm {c : Config} {b : List Bool} (hb : b.length = 24) :
    layoutFields c .therm b = thermFields b := congrArg thermFields (layoutBits_of_length hb.ge)

/-! ### Frames of one kind (R179 to R183, R213, R214) -/

theorem decodeFrame_of_all_reject {c : Config} {frame : List Dur}
    (h : ∀ n, ∃ r, tryProtocol c (c.row n) frame = .error r) : decodeFrame c frame = .genericSignal frame :=
  (firstSuccessfulAttemptWins.1 c frame _).2 (.inr ⟨fun n _ => h n, rfl⟩)

/-- The event of a frame comes from a row that accepts it, or is the GenericSignal. -/
theorem decodeFrame_source {c : Config} {frame : List Dur} {ev : Event} (h : decodeFrame c frame = ev) :
    (∃ n, tryProtocol c (c.row n) frame = .ok ev) ∨ ev = .genericSignal frame := by
  obtain ⟨_, n, _, -, hok, -⟩ | ⟨-, hgen⟩ := (firstSuccessfulAttemptWins.1 c frame ev).1 h
  · exact .inl ⟨n, hok⟩
  · exact .inr hgen

/-- An attempt outside its sync window is rejected, whatever the frame's length. -/
theorem tryProtocol_error_of_sync {c : Config} {desc : Descriptor} {frame : List Dur}
    (h : syncInRange desc (delayOf desc (frame.getD 0 0)) = false) : ∃ r, tryProtocol c desc frame = .error r := by
  by_cases hlen : frame.length = desc.expectedLength
  · exact ⟨_, tryProtocol_sync_error hlen h⟩
  · exact ⟨_, tryProtocol_length_error hlen⟩

/-- Settles O36: the windows are disjoint, so a reading could come from the switch row only, which gives commands. -/
theorem switchAndThermometerSyncsAreDisjoint : Obligations.SwitchAndThermometerSyncsAreDisjoint := by
  intro c frame hc hsync
  have hdiv := fun n => (row_legal hc n).2.2
  obtain ⟨hA, hB⟩ := ranges_legal hc
  have hsyncA := sync_excluded_of_disjoint (hdiv .switch) (hdiv .thermA) hA hsync
  have hsyncB := sync_excluded_of_disjoint (hdiv .switch) (hdiv .thermB) hB hsync
  refine ⟨hsyncA, hsyncB, fun hlayout id sign mag tenths low h => ?_⟩
  obtain ⟨n, hok⟩ | hgen := decodeFrame_source h
  · obtain ⟨-, hn, b, -, hfields⟩ := tryProtocol_eq_ok.1 hok
    cases n with
    | switch =>
      rw [Config.row, hlayout] at hfields
      obtain ⟨_, _, _, hcmd⟩ := switchFields_ok_command hfields
      cases hcmd
    | thermA => exact absurd (hn.symm.trans hsyncA) (by decide)
    | thermB => exact absurd (hn.symm.trans hsyncB) (by decide)
  · cases hgen

/-- A frame of delay 275, between this hardware's thermometer and switch windows, whose pairs spell 24 zeros. -/
def delay275Frame : List Dur := 8525 :: (List.replicate 24 [255, 765]).flatten

/-- Settles O37: the two rows are equal at the defaults, and with the range 270 to 280 THERM_B alone reads the frame of
delay 275. -/
theorem thermBIsUnreachableAtTheDefaults : Obligations.ThermBIsUnreachableAtTheDefaults := by
  refine ⟨fun frame ev h => h, 270, 280, delay275Frame, .thermometerReading 0 false 0 0 false, by decide, ?_,
    by decide, by decide⟩
  intro e h
  exact absurd (tryProtocol_eq_ok.1 h).2.1 (by decide)

/-- Settles O38: every row expects 49 entries. -/
theorem sixtyFiveEntryFramesAreGeneric : Obligations.SixtyFiveEntryFramesAreGeneric := by
  intro frame h
  refine decodeFrame_of_all_reject fun n => ⟨_, tryProtocol_length_error ?_⟩
  cases n <;> exact h ▸ (by decide : 65 ≠ 49)

/-- Settles O39: no window holds the delay 500 (R128). -/
theorem delayFiveHundredIsGeneric : Obligations.DelayFiveHundredIsGeneric := by
  intro frame _ hmin hmax
  refine decodeFrame_of_all_reject fun n => tryProtocol_error_of_sync ?_
  rw [← Bool.not_eq_true]
  intro hn
  have := hardware_sync_bounds hn
  omega

/-- A frame of 49 entries that spells 24 bits and passes the sync check reads as its bits' fields. -/
theorem tryProtocol_of_spells {c : Config} {desc : Descriptor} {frame : List Dur} {b : List Bool}
    (hlen : frame.length = 49) (hexp : desc.expectedLength = 49) (hb : b.length = 24)
    (hsync : syncInRange desc (delayOf desc (frame.getD 0 0)) = true) (hs : Spells desc frame b) :
    tryProtocol c desc frame = layoutFields c desc.layout b := by
  have hbits : extractBits desc frame = .ok b := (extractBits_eq_ok (by omega)).2 hs
  simp only [tryProtocol, checkLength, checkSync, hlen, hexp, if_true, hsync, hbits, bind, Except.bind]

/-- Settles O40: SWITCH, the first row, accepts the frame, and its fields invert the layout. -/
theorem switchFramesRoundTrip : Obligations.SwitchFramesRoundTrip := by
  intro p mask x on frame hlen hmin hmax hs
  refine (firstSuccessfulAttemptWins.1 _ frame _).2 (.inl ⟨[], .switch, [.thermA, .thermB], rfl, ?_, by simp⟩)
  have hb := switchString_length p mask x on
  exact (tryProtocol_of_spells hlen rfl hb ((hardware_switch_sync _).2 ⟨hmin, hmax⟩) hs).trans
    ((layoutFields_switch hb).trans ((switchFields_eq_ok hb).2 ⟨mask, x, on, rfl, rfl⟩))

/-! ### The thermometer string (R90, R209) -/

@[simp] theorem thermoString_length (id : BitVec 8) (sign : Bool) (mag : BitVec 7) (batt tenths : BitVec 4) :
    (thermoString id sign mag batt tenths).length = 24 := by simp [thermoString]

/-- A field of a string, by the lengths of what stands before it and of itself. -/
theorem bitSlice_append {u v w : List Bool} {i j : Nat} (hu : u.length = i) (hv : v.length = j + 1 - i) :
    bitSlice (u ++ v ++ w) i j = v := by
  rw [bitSlice, List.append_assoc, List.drop_left' hu, List.take_left' hv]

theorem bitsOf_eq_replicate_true {id : BitVec 8} : bitsOf id = List.replicate 8 true ↔ id = 0xFF :=
  ⟨fun h => bitsOf_injective (h.trans (by decide)), fun h => by subst h; decide⟩

theorem bitsOf_eq_replicate_false {batt : BitVec 4} : bitsOf batt = [false, false, false, false] ↔ batt = 0 :=
  ⟨fun h => bitsOf_injective (h.trans (by decide)), fun h => by subst h; decide⟩

section ThermoFields
variable {id : BitVec 8} {sign : Bool} {mag : BitVec 7} {batt tenths : BitVec 4}

theorem thermoString_id : bitSlice (thermoString id sign mag batt tenths) 0 7 = bitsOf id := by
  simp only [thermoString, List.append_assoc]
  exact bitSlice_append (u := []) rfl (bitsOf_length id)

/-- Each field lies where R90 puts it, and is read as the code it is the string of. -/
theorem thermFields_thermoString (hid : id ≠ 0xFF) :
    thermFields (thermoString id sign mag batt tenths) =
      .ok (.thermometerReading id sign mag tenths (decide (batt ≠ 0))) := by
  have hmag : bitSlice (thermoString id sign mag batt tenths) 9 15 = bitsOf mag := by
    rw [thermoString, List.append_assoc]
    exact bitSlice_append (by simp) (bitsOf_length mag)
  have hbatt : bitSlice (thermoString id sign mag batt tenths) 16 19 = bitsOf batt :=
    bitSlice_append (by simp) (bitsOf_length batt)
  have htenths : bitSlice (thermoString id sign mag batt tenths) 20 23 = bitsOf tenths := by
    rw [thermoString, ← List.append_nil (_ ++ bitsOf tenths)]
    exact bitSlice_append (by simp) (bitsOf_length tenths)
  have hsign : bitAt (thermoString id sign mag batt tenths) 8 = sign := by
    simp [thermoString, bitAt, List.getD_eq_getElem?_getD]
  have hok : thermId (bitSlice (thermoString id sign mag batt tenths) 0 7) = .ok id := by
    rw [thermoString_id]
    exact thermId_bitsOf (bitsOf_eq_replicate_true.not.2 hid)
  rw [thermFields_of_thermId_ok hok, thermMag_of_bitsOf hmag.symm, thermTenths_of_bitsOf htenths.symm, hsign, hbatt]
  simp only [ne_eq, bitsOf_eq_replicate_false]

end ThermoFields

/-- In the thermometer window the switch row rejects at the sync check. -/
theorem hardware_switch_rejects {frame : List Dur} (hmax : (frame.getD 0 0).toNat ≤ 8090) :
    ∃ r, tryProtocol Config.hardware (Config.hardware.row .switch) frame = .error r := by
  refine tryProtocol_error_of_sync ?_
  rw [← Bool.not_eq_true]
  intro h
  have := (hardware_switch_sync _).1 h
  omega

/-- Settles O41: SWITCH rejects the sync pulse, and THERM_A reads the fields. -/
theorem thermometerFramesDecode : Obligations.ThermometerFramesDecode := by
  intro id sign mag batt tenths frame hid hlen hmin hmax hs
  refine (firstSuccessfulAttemptWins.1 _ frame _).2 (.inl ⟨[.switch], .thermA, [.thermB], rfl, ?_, ?_⟩)
  · have hb := thermoString_length id sign mag batt tenths
    exact (tryProtocol_of_spells hlen rfl hb ((hardware_therm_sync _).2 ⟨hmin, hmax⟩) hs).trans
      ((layoutFields_therm hb).trans (thermFields_thermoString hid))
  · simpa using hardware_switch_rejects hmax

/-- Settles O42: SWITCH rejects the sync pulse, and both thermometer rows the marker. -/
theorem reservedIdIsGeneric : Obligations.ReservedIdIsGeneric := by
  intro frame b hlen hb hmin hmax hs hmark
  have htherm : tryProtocol Config.hardware Config.hardware.thermARow frame = .error .idff :=
    (tryProtocol_of_spells hlen rfl hb ((hardware_therm_sync _).2 ⟨hmin, hmax⟩) hs).trans
      ((layoutFields_therm hb).trans (thermFields_of_marker hmark))
  have hreject : ∀ n, ∃ r, tryProtocol Config.hardware (Config.hardware.row n) frame = .error r := by
    intro n
    cases n with
    | switch => exact hardware_switch_rejects hmax
    | thermA | thermB => exact ⟨_, htherm⟩
  exact ⟨hreject, decodeFrame_of_all_reject hreject⟩

end Sys2Proof.Machine
end

section
/-!
The field-code rows, one at a time (log 3; 30_encoding.md sections 3 to 6, 42_classifier.md section 1): what each does
to the classifier's locals and to the record, and how they compose to a whole string (R203) and to a whole attempt
(R170).
-/

namespace Sys2Proof.Machine

/-! ### Reading a code and rejecting it -/

/-- A code read without an event: the step clears the event and writes the locals. -/
theorem locals_written (s : State) (a : Attempt) : LocalsBecome s { clearEvent s with att := a } a :=
  ⟨⟨rfl, rfl, rfl, rfl, rfl⟩, ⟨rfl, rfl⟩, rfl, rfl⟩

section Codes
variable {s : State} {v : Bool} {desc : Descriptor}

theorem readBit_extends (hcur : currentDesc s = some desc) (hmore : s.att.bits.length + 1 < pairCount desc) :
    readBit v (clearEvent s) = { clearEvent s with att := { s.att with bits := s.att.bits ++ [v] } } :=
  readBit_more v ((currentDesc_clearEvent s).trans hcur) hmore

theorem readBit_completes (hcur : currentDesc s = some desc) (hlast : pairCount desc ≤ s.att.bits.length + 1) :
    readBit v (clearEvent s) = runFields desc.layout (s.att.bits ++ [v]) (clearEvent s) :=
  readBit_last v ((currentDesc_clearEvent s).trans hcur) hlast

/-- Settles O44, by whether a descriptor is being tried and whether its last pair is read. -/
theorem halfPairBitsSpellTheString : Obligations.HalfPairBitsSpellTheString := by
  intro s i v hi hfits
  have he : exec i s = .next (readBit v (clearEvent s)) := by
    obtain ⟨rfl, rfl⟩ | ⟨rfl, rfl⟩ := hi <;> rfl
  refine ⟨_, he, fun desc hcur => ⟨fun hmore => ?_, fun hlast => ?_⟩, fun hcur => ?_⟩
  · rw [readBit_extends hcur hmore]
    exact locals_written s _
  · rw [readBit_completes hcur hlast]
    exact ⟨fun ev => runFields_ok, fun r h => runFields_error h hfits⟩
  · rw [readBit_of_generic v ((currentDesc_clearEvent s).trans hcur)]
    exact rejectAttempt_rejectedTo s hfits

/-! ### The illegal codes (R85, R87, R88, R89, R91) -/

theorem buttonBits_eq_bitsOf_legal (x : Button) : ∃ code ∈ legalButtonCodes, buttonBits x = bitsOf code := by
  obtain ⟨ha, hb, hc, hd, he⟩ := buttonBits_eq_bitsOf
  cases x
  exacts [⟨_, by decide, ha⟩, ⟨_, by decide, hb⟩, ⟨_, by decide, hc⟩, ⟨_, by decide, hd⟩, ⟨_, by decide, he⟩]

theorem powerBits_eq_bitsOf_legal (on : Bool) : ∃ code ∈ legalPowerCodes, powerBits on = bitsOf code := by
  cases on
  exacts [⟨0b0100, by decide, by decide⟩, ⟨0b0001, by decide, by decide⟩]

theorem switchButton_illegal {code : BitVec 10} (h : code ∉ legalButtonCodes) :
    ∃ r, switchButton (bitsOf code) = .error r := by
  refine exists_error_of_forall_ne_ok fun x hx => h ?_
  obtain ⟨legal, hmem, hbits⟩ := buttonBits_eq_bitsOf_legal x
  rwa [bitsOf_injective (((switchButton_eq_ok (bitsOf_length code)).1 hx).trans hbits)]

theorem switchPower_illegal {code : BitVec 4} (h : code ∉ legalPowerCodes) :
    ∃ r, switchPower (bitsOf code) = .error r := by
  refine exists_error_of_forall_ne_ok fun on hon => h ?_
  obtain ⟨legal, hmem, hbits⟩ := powerBits_eq_bitsOf_legal on
  rwa [bitsOf_injective ((switchPower_eq_ok.1 hon).trans hbits)]

theorem thermString_reserved (c : Config) (sign : Bool) (mag : BitVec 7) (batt tenths : BitVec 4) :
    layoutFields c .therm (bitsOf (encodeThermoFrame 0xFF sign mag batt tenths)) = .error .idff := by
  rw [layoutFields_therm (bitsOf_length _), bitsOf_encodeThermoFrame]
  refine thermFields_of_marker ?_
  rw [thermoString_id]
  decide

/-- Settles O45: every illegal code leads to the reject of R170. -/
theorem illegalCodesRejectTheAttempt : Obligations.IllegalCodesRejectTheAttempt := by
  intro s i hfits hi
  have hreject := rejectAttempt_rejectedTo s hfits
  rcases hi with rfl | rfl | ⟨j, rfl⟩ | ⟨j, rfl⟩ | ⟨code, rfl, hwf⟩ | ⟨code, rfl, hwf⟩ | ⟨sign, mag, batt, tenths, rfl⟩
  · exact ⟨_, rfl, hreject⟩
  · exact ⟨_, rfl, hreject⟩
  · refine ⟨_, rfl, ?_⟩
    rwa [readChannel_error (channelState_first_bit_one _ false)]
  · refine ⟨_, rfl, ?_⟩
    rwa [readChannel_error (channelState_first_bit_one _ true)]
  · obtain ⟨r, hr⟩ := switchButton_illegal (wellFormed_swBtnIllegal.1 hwf)
    refine ⟨_, rfl, ?_⟩
    rwa [readButton_error hr]
  · obtain ⟨r, hr⟩ := switchPower_illegal (wellFormed_swPwrIllegal.1 hwf)
    refine ⟨_, rfl, ?_⟩
    rwa [readPower_error hr]
  · exact ⟨_, rfl, runFields_error (thermString_reserved s.cfg sign mag batt tenths) hfits⟩

/-! ### The legal codes (R87 to R90, R200 to R202, R206) -/

/-- A channel code writes its channel's state at the configured polarity. -/
theorem readChannel_writes (s : State) (j : Fin 5) (on : Bool) :
    readChannel j (channelBits s.cfg.channelPolarity on) (clearEvent s) =
      { clearEvent s with att := { s.att with ch := setChannel s.att.ch j on } } :=
  readChannel_ok (channelState_eq_ok.2 rfl)

/-- The pair "00" stands for on exactly at ON_IS_00, the pair "01" exactly at ON_IS_01 (R87). -/
theorem channelBits_of_polarity (p : ChannelPolarity) :
    channelBits p (decide (p = .onIs00)) = [false, false] ∧ channelBits p (decide (p = .onIs01)) = [false, true] := by
  cases p <;> decide

/-- Settles O46: the code's state at the polarity is written to channel j. -/
theorem channelCodesWriteTheirChannel : Obligations.ChannelCodesWriteTheirChannel := by
  intro s j
  obtain ⟨h00, h01⟩ := channelBits_of_polarity s.cfg.channelPolarity
  refine ⟨⟨_, setChannel s.att.ch j _, rfl, ?_, setChannel_getLsbD _ _ _⟩,
    ⟨_, setChannel s.att.ch j _, rfl, ?_, setChannel_getLsbD _ _ _⟩⟩
  · rw [← h00, readChannel_writes]
    exact locals_written s _
  · rw [← h01, readChannel_writes]
    exact locals_written s _

theorem exec_buttonRow (x : Button) (s : State) :
    exec (buttonRow x) s = .next { clearEvent s with att := { s.att with btn := x } } := by
  cases x <;> rfl

theorem exec_powerRow (on : Bool) (s : State) :
    exec (powerRow on) s = .next { clearEvent s with att := { s.att with pwr := on } } := by
  cases on <;> rfl

/-- Settles O47: the row's code is read as its own button or power state. -/
theorem buttonAndPowerCodesWriteTheirLocal : Obligations.ButtonAndPowerCodesWriteTheirLocal := fun s =>
  ⟨fun x => ⟨_, exec_buttonRow x s, locals_written s _⟩, fun p => ⟨_, exec_powerRow p s, locals_written s _⟩⟩

theorem thermBattery_bitsOf (batt : BitVec 4) : thermBattery (bitsOf batt) = decide (batt ≠ 0) :=
  decide_eq_decide.2 bitsOf_eq_replicate_false.not

/-- Settles O48: the flag is whether the code differs from "0000". -/
theorem batteryCodesWriteTheFlag : Obligations.BatteryCodesWriteTheFlag := by
  refine fun s => ⟨⟨_, rfl, locals_written s _⟩, fun code hcode => ⟨_, rfl, ?_⟩⟩
  rw [readBattery, thermBattery_bitsOf, decide_eq_true hcode]
  exact locals_written s _

/-! ### The whole strings (R203, R209) and the event kinds (R92) -/

theorem switchString_bits {chan btn : BitVec 10} {pwr : BitVec 4} {p : ChannelPolarity} {mask : BitVec 5} {x : Button}
    {on : Bool} :
    bitsOf (encodeSwitchFrame chan btn pwr) = switchString p mask x on ↔
      bitsOf chan = channelString p mask ∧ bitsOf btn = buttonBits x ∧ bitsOf pwr = powerBits on := by
  rw [eq_switchString_iff (bitsOf_length _), bitsOf_encodeSwitchFrame,
    bitSlice_button (bitsOf_length chan) (bitsOf_length btn),
    bitSlice_power (bitsOf_length chan) (bitsOf_length btn) (bitsOf_length pwr), List.append_assoc,
    List.take_left' (bitsOf_length chan)]

theorem layoutFields_switchFrame {c : Config} {chan btn : BitVec 10} {pwr : BitVec 4} {ev : Event} :
    layoutFields c .switch (bitsOf (encodeSwitchFrame chan btn pwr)) = .ok ev ↔
      ∃ mask x on, ev = .switchCommand mask x on ∧ bitsOf chan = channelString c.channelPolarity mask ∧
        bitsOf btn = buttonBits x ∧ bitsOf pwr = powerBits on := by
  rw [layoutFields_switch (bitsOf_length _), switchFields_eq_ok (bitsOf_length _)]
  simp only [switchString_bits]

/-- SW_FRAME on the layout of a command accepts the command, whatever frame is handed (R203). -/
theorem runFields_switchFrame {chan btn : BitVec 10} {pwr : BitVec 4} {mask : BitVec 5} {x : Button} {on : Bool}
    (hchan : bitsOf chan = channelString s.cfg.channelPolarity mask) (hbtn : bitsOf btn = buttonBits x)
    (hpwr : bitsOf pwr = powerBits on) :
    AcceptedTo s (runFields .switch (bitsOf (encodeSwitchFrame chan btn pwr)) (clearEvent s))
      (.switchCommand mask x on) { s.att with ch := mask, btn := x, pwr := on } :=
  runFields_ok (layoutFields_switchFrame.2 ⟨mask, x, on, rfl, hchan, hbtn, hpwr⟩)

/-- Settles O49: the strings that are read are the layouts of commands. -/
theorem switchStringGivesCommandOrRejects : Obligations.SwitchStringGivesCommandOrRejects := by
  refine fun s chan btn pwr hfits => ⟨_, rfl, fun mask x p => runFields_switchFrame, fun hnone => ?_⟩
  obtain ⟨r, hr⟩ := exists_error_of_forall_ne_ok fun ev hev => by
    obtain ⟨mask, x, on, -, hlayout⟩ := layoutFields_switchFrame.1 hev
    exact hnone mask x on hlayout
  exact runFields_error hr hfits

/-- Settles O50: only the reserved ID is rejected. -/
theorem thermometerStringGivesReading : Obligations.ThermometerStringGivesReading := by
  intro s id sign mag batt tenths hid
  have hfields : layoutFields s.cfg .therm (bitsOf (encodeThermoFrame id sign mag batt tenths)) =
      .ok (.thermometerReading id sign mag tenths (decide (batt ≠ 0))) := by
    rw [layoutFields_therm (bitsOf_length _), bitsOf_encodeThermoFrame, thermFields_thermoString hid]
  exact ⟨_, rfl, runFields_ok hfields⟩

theorem evSwitch_accepted (s : State) :
    ∃ t, exec .evSwitch s = .next t ∧ AcceptedTo s t (.switchCommand s.att.ch s.att.btn s.att.pwr) s.att :=
  ⟨_, rfl, acceptEvent_acceptedTo s _ s.att nofun⟩

/-- Settles O51: each row accepts the event it names, and leaves the locals to the next classification. -/
theorem eventKindsPresentTheirEvent : Obligations.EventKindsPresentTheirEvent := by
  refine fun s => ⟨evSwitch_accepted s, ⟨_, rfl, acceptEvent_acceptedTo s _ s.att nofun⟩, fun hfits =>
    ⟨_, rfl, acceptEvent_acceptedTo s _ s.att ?_⟩⟩
  rintro f ⟨⟩
  exact hfits

end Codes

/-! ### Runs of field codes -/

theorem SameFraming.symm {s t : State} (h : SameFraming s t) : SameFraming t s :=
  ⟨h.st.symm, h.cnt.symm, h.buf.symm, h.fbuf.symm, h.flen.symm⟩

theorem SameFraming.trans {s t u : State} (h : SameFraming s t) (h' : SameFraming t u) : SameFraming s u :=
  ⟨h'.st.trans h.st, h'.cnt.trans h.cnt, h'.buf.trans h.buf, h'.fbuf.trans h.fbuf, h'.flen.trans h.flen⟩

theorem SameSurroundings.symm {s t : State} (h : SameSurroundings s t) : SameSurroundings t s :=
  ⟨h.cfg.symm, h.input.symm⟩

theorem SameSurroundings.trans {s t u : State} (h : SameSurroundings s t) (h' : SameSurroundings t u) :
    SameSurroundings s u :=
  ⟨h'.cfg.trans h.cfg, h'.input.trans h.input⟩

/-- The frame handed to the classifier is a part of the framing. -/
theorem handedFrame_congr {s t : State} (hf : SameFraming s t) (hs : SameSurroundings s t) :
    handedFrame t = handedFrame s := by
  simp only [handedFrame, bufFrame, firstFrame, hs.cfg, hf.cnt, hf.buf, hf.fbuf, hf.flen]

/-- What a run of code readings does, whatever record it leaves: only the classifier's locals change, to `a`. -/
structure OnlyLocalsBecome (s t : State) (a : Attempt) : Prop where
  framing : SameFraming s t
  surroundings : SameSurroundings s t
  locals : t.att = a

theorem LocalsBecome.only {s t : State} {a : Attempt} (h : LocalsBecome s t a) : OnlyLocalsBecome s t a :=
  ⟨h.framing, h.surroundings, h.locals⟩

namespace OnlyLocalsBecome
variable {s t u : State} {a b : Attempt}

theorem refl (s : State) : OnlyLocalsBecome s s s.att := ⟨⟨rfl, rfl, rfl, rfl, rfl⟩, ⟨rfl, rfl⟩, rfl⟩

theorem trans (h : OnlyLocalsBecome s t a) (h' : OnlyLocalsBecome t u b) : OnlyLocalsBecome s u b :=
  ⟨h.framing.trans h'.framing, h.surroundings.trans h'.surroundings, h'.locals⟩

/-- An event accepted after a run of readings is accepted from where the run began. -/
theorem accepted {ev : Event} (h : OnlyLocalsBecome s t a) (h' : AcceptedTo t u ev b) : AcceptedTo s u ev b :=
  ⟨h.framing.trans h'.framing, h.surroundings.trans h'.surroundings, h'.shows_event, h'.locals⟩

/-- What a reject asks of the frame handed on still holds after a run of readings. -/
theorem handedFrame_fits (h : OnlyLocalsBecome s t a) (hfits : (handedFrame s).length ≤ s.cfg.maxAccum) :
    (handedFrame t).length ≤ t.cfg.maxAccum := by
  rwa [handedFrame_congr h.framing h.surroundings, h.surroundings.cfg]

/-- Reading bits leaves the descriptor being tried. -/
theorem currentDesc_eq {bits : List Bool} (h : OnlyLocalsBecome s t { s.att with bits := bits }) :
    currentDesc t = currentDesc s := by
  simp only [currentDesc, h.surroundings.cfg, h.locals]

/-- A reject after some bits is a reject of the attempt they were read in. -/
theorem rejected {bits : List Bool} (h : OnlyLocalsBecome s t { s.att with bits := bits }) (h' : RejectedTo t u) :
    RejectedTo s u where
  framing := h.framing.trans h'.framing
  surroundings := h.surroundings.trans h'.surroundings
  next_attempt hn := by
    rw [← h.surroundings.cfg] at hn
    have hnext := h'.next_attempt
    simp only [h.locals] at hnext
    exact hnext hn
  fall_through hn := by
    rw [← h.surroundings.cfg] at hn
    have hfall := h'.fall_through
    simp only [h.locals, handedFrame_congr h.framing h.surroundings] at hfall
    exact hfall hn

end OnlyLocalsBecome

/-- The same event accepted in two ways leaves the same state but for the free values drawn. -/
theorem AcceptedTo.agree {s t u : State} {ev : Event} {a : Attempt} (ht : AcceptedTo s t ev a)
    (hu : AcceptedTo s u ev a) : SameFraming u t ∧ SameSurroundings u t ∧ t.att = u.att :=
  ⟨hu.framing.symm.trans ht.framing, hu.surroundings.symm.trans ht.surroundings, ht.locals.trans hu.locals.symm⟩

/-! ### Code by code is the whole switch string (R200 to R203) -/

theorem exec_channelRow (j : Fin 5) (on : Bool) (s : State) :
    exec (channelRow s.cfg.channelPolarity j on) s =
      .next { clearEvent s with att := { s.att with ch := setChannel s.att.ch j on } } := by
  rw [← readChannel_writes]
  cases s.cfg.channelPolarity <;> cases on <;> rfl

/-- `ch` after the pairs of these channels were read from a command's layout. -/
def writeChannels (mask ch : BitVec 5) (js : List (Fin 5)) : BitVec 5 :=
  js.foldl (fun ch j => setChannel ch j (mask.getLsbD j)) ch

theorem writeChannels_getLsbD (mask : BitVec 5) (js : List (Fin 5)) (k : Fin 5) :
    ∀ ch, (writeChannels mask ch js).getLsbD k = if k ∈ js then mask.getLsbD k else ch.getLsbD k := by
  induction js with
  | nil => exact fun ch => rfl
  | cons j js ih =>
    intro ch
    rw [writeChannels, List.foldl_cons, ← writeChannels, ih, setChannel_getLsbD]
    by_cases hk : k = j
    · simp [hk]
    · simp [hk]

/-- Once all five channels are read, `ch` is the command's mask. -/
theorem writeChannels_all (mask ch : BitVec 5) : writeChannels mask ch [0, 1, 2, 3, 4] = mask := by
  refine BitVec.eq_of_getLsbD_eq fun k hk => ?_
  have hmem : ∀ k : Fin 5, k ∈ [0, 1, 2, 3, 4] := by decide
  exact (writeChannels_getLsbD mask _ ⟨k, hk⟩ ch).trans (if_pos (hmem _))

theorem run_channelRows (mask : BitVec 5) (js : List (Fin 5)) :
    ∀ s : State, ∃ t,
      runInstrs (js.map fun j => channelRow s.cfg.channelPolarity j (mask.getLsbD j)) s = .next t ∧
        OnlyLocalsBecome s t { s.att with ch := writeChannels mask s.att.ch js } := by
  induction js with
  | nil => exact fun s => ⟨s, rfl, .refl s⟩
  | cons j js ih =>
    intro s
    obtain ⟨t, hrun, ht⟩ := ih { clearEvent s with att := { s.att with ch := setChannel s.att.ch j (mask.getLsbD j) } }
    exact ⟨t, (runInstrs_cons (exec_channelRow j _ s)).trans hrun, (locals_written s _).only.trans ht⟩

/-- Settles O52: both ways accept the same command, with the same locals. -/
theorem switchCodesComposeToTheString : Obligations.SwitchCodesComposeToTheString := by
  intro s mask x p chan btn pwr hchan hbtn hpwr
  obtain ⟨t1, hrun, h1⟩ := run_channelRows mask [0, 1, 2, 3, 4] s
  rw [writeChannels_all] at h1
  obtain ⟨t, hev, ht⟩ := evSwitch_accepted
    { clearEvent { clearEvent t1 with att := { t1.att with btn := x } } with att := { t1.att with btn := x, pwr := p } }
  have hlast := (locals_written _ _).only.accepted ht
  have hacc : AcceptedTo s t (.switchCommand mask x p) { s.att with ch := mask, btn := x, pwr := p } := by
    have := h1.accepted ((locals_written t1 _).only.accepted hlast)
    simpa only [h1.locals] using this
  have hu := runFields_switchFrame hchan hbtn hpwr
  refine ⟨t, _, ?_, rfl, hacc.shows_event, hu.shows_event, hacc.agree hu⟩
  rw [runInstrs_append hrun, runInstrs_cons (exec_buttonRow x t1), runInstrs_cons (exec_powerRow p _),
    runInstrs_single hev]

/-! ### Symbol by symbol is the attempt (R170, R174 to R176) -/

/-- The symbol that spells a bit (R127). -/
def bitSymbol (v : Bool) : PairSymbol := if v then .bit1 else .bit0

theorem ne_bad_of_mem_map_bitSymbol {b : List Bool} {sym : PairSymbol} (h : sym ∈ b.map bitSymbol) : sym ≠ .bad := by
  obtain ⟨v, -, rfl⟩ := List.mem_map.1 h
  cases v <;> decide

theorem exec_bitSymbol (v : Bool) (s : State) :
    exec (symbolRow (bitSymbol v)) s = .next (readBit v (clearEvent s)) := by
  cases v <;> rfl

/-- A list of symbols without a BAD one is the list its bits spell. -/
theorem eq_map_bitSymbol_of_spellBits : ∀ {syms : List PairSymbol} {b : List Bool}, spellBits syms = .ok b →
    syms = b.map bitSymbol
  | [], _, h => by cases h; rfl
  | .bad :: _, _, h => by cases h
  | .bit0 :: rest, _, h => by
    cases hr : spellBits rest <;> simp only [spellBits, hr, Except.map] at h <;> cases h
    rw [eq_map_bitSymbol_of_spellBits hr]; rfl
  | .bit1 :: rest, _, h => by
    cases hr : spellBits rest <;> simp only [spellBits, hr, Except.map] at h <;> cases h
    rw [eq_map_bitSymbol_of_spellBits hr]; rfl

/-- A list of symbols that is rejected has a first BAD one, after symbols that spell bits. -/
theorem exists_first_bad_of_spellBits : ∀ {syms : List PairSymbol} {r : Reject}, spellBits syms = .error r →
    ∃ (b : List Bool) (rest : List PairSymbol), syms = b.map bitSymbol ++ .bad :: rest
  | [], _, h => by cases h
  | .bad :: rest, _, _ => ⟨[], rest, rfl⟩
  | .bit0 :: rest, _, h => by
    cases hr : spellBits rest <;> simp only [spellBits, hr, Except.map] at h <;> cases h
    obtain ⟨b, tail, rfl⟩ := exists_first_bad_of_spellBits hr
    exact ⟨false :: b, tail, rfl⟩
  | .bit1 :: rest, _, h => by
    cases hr : spellBits rest <;> simp only [spellBits, hr, Except.map] at h <;> cases h
    obtain ⟨b, tail, rfl⟩ := exists_first_bad_of_spellBits hr
    exact ⟨true :: b, tail, rfl⟩

theorem run_bits_before_last {desc : Descriptor} (bs : List Bool) :
    ∀ s : State, currentDesc s = some desc → s.att.bits.length + bs.length < pairCount desc →
      ∃ t, runInstrs ((bs.map bitSymbol).map symbolRow) s = .next t ∧
        OnlyLocalsBecome s t { s.att with bits := s.att.bits ++ bs } := by
  induction bs with
  | nil => exact fun s _ _ => ⟨s, rfl, by simpa using OnlyLocalsBecome.refl s⟩
  | cons v bs ih =>
    intro s hcur hlen
    rw [List.length_cons] at hlen
    have he := (exec_bitSymbol v s).trans (congrArg _ (readBit_extends hcur (by omega)))
    have h1 := (locals_written s { s.att with bits := s.att.bits ++ [v] }).only
    obtain ⟨t, hrun, ht⟩ := ih _ (h1.currentDesc_eq.trans hcur)
      (by rw [List.length_append, List.length_singleton]; omega)
    refine ⟨t, (runInstrs_cons he).trans hrun, ?_⟩
    simpa using h1.trans ht

/-- The symbols of a whole string end in the extraction of its fields. -/
theorem run_whole_string {desc : Descriptor} {s : State} {b : List Bool} (hbits : s.att.bits = [])
    (hcur : currentDesc s = some desc) (hb : b.length = pairCount desc) (hpos : 1 ≤ b.length) :
    ∃ t bits, runInstrs ((b.map bitSymbol).map symbolRow) s = .next (runFields desc.layout b (clearEvent t)) ∧
      OnlyLocalsBecome s t { s.att with bits := bits } := by
  obtain ⟨bs, v, rfl⟩ := (List.eq_nil_or_concat' b).resolve_left (by rintro rfl; simp at hpos)
  rw [List.length_append, List.length_singleton] at hb
  obtain ⟨t, hrun, ht⟩ := run_bits_before_last bs s hcur (by rw [hbits, List.length_nil]; omega)
  refine ⟨t, _, ?_, ht⟩
  have hread : t.att.bits = bs := by rw [ht.locals, hbits, List.nil_append]
  have hlast := readBit_completes (v := v) (ht.currentDesc_eq.trans hcur) (by rw [hread]; omega)
  rw [hread] at hlast
  rw [List.map_append, List.map_append, runInstrs_append hrun, ← hlast]
  exact runInstrs_single (exec_bitSymbol v t)

/-- The first BAD symbol, before the string is whole, rejects. -/
theorem run_to_first_bad {desc : Descriptor} {s : State} {b : List Bool} (hbits : s.att.bits = [])
    (hcur : currentDesc s = some desc) (hb : b.length < pairCount desc)
    (hfits : (handedFrame s).length ≤ s.cfg.maxAccum) :
    ∃ t, runInstrs ((b.map bitSymbol ++ [PairSymbol.bad]).map symbolRow) s = .next t ∧ RejectedTo s t := by
  obtain ⟨t, hrun, ht⟩ := run_bits_before_last b s hcur (by rwa [hbits, List.length_nil, Nat.zero_add])
  refine ⟨_, ?_, ht.rejected (rejectAttempt_rejectedTo t (ht.handedFrame_fits hfits))⟩
  rw [List.map_append, runInstrs_append hrun]
  exact runInstrs_single rfl

/-- What is left of an attempt after its length and sync checks (R170). -/
theorem tryProtocol_of_checks {c : Config} {desc : Descriptor} {frame : List Dur}
    (hlen : frame.length = desc.expectedLength)
    (hsync : syncInRange desc (delayOf desc (frame.getD 0 0)) = true) :
    tryProtocol c desc frame = spellBits (pairSymbols desc frame.tail) >>= layoutFields c desc.layout := by
  simp only [tryProtocol, checkLength, checkSync, hlen, if_true, hsync, extractBits, bind, Except.bind]

/-- The descriptor being tried is a row of the table. -/
theorem exists_row_of_currentDesc {s : State} {desc : Descriptor} (h : currentDesc s = some desc) :
    ∃ n, s.cfg.row n = desc := by
  obtain ⟨n, -, hn⟩ := List.mem_map.1 (List.mem_of_getElem? h)
  exact ⟨n, hn⟩

/-- Settles O53: a string without a BAD symbol is read to its end, where its fields are extracted; the first BAD symbol
rejects. -/
theorem symbolsComposeToTheAttempt : Obligations.SymbolsComposeToTheAttempt := by
  intro s desc frame hc hbits hcur hfits hlen hthree hsync
  have hodd : desc.expectedLength % 2 = 1 := by
    obtain ⟨n, rfl⟩ := exists_row_of_currentDesc hcur
    exact (row_legal hc n).2.1
  have hcount : (pairSymbols desc frame.tail).length = pairCount desc := by
    rw [pairSymbols_length, List.length_tail, hlen, pairCount]
  have hpos : 1 ≤ pairCount desc := by
    rw [pairCount]
    omega
  rw [tryProtocol_of_checks hlen hsync]
  generalize pairSymbols desc frame.tail = syms at hcount ⊢
  cases hsp : spellBits syms with
  | ok b =>
    obtain rfl := eq_map_bitSymbol_of_spellBits hsp
    rw [List.length_map] at hcount
    obtain ⟨t, bits, hrun, ht⟩ := run_whole_string hbits hcur hcount (hcount ▸ hpos)
    refine ⟨fun ev hev => ?_, fun r hr => ?_⟩
    · have hacc := ht.accepted (runFields_ok (ht.surroundings.cfg ▸ hev))
      exact ⟨_, hrun, hacc.shows_event, hacc.framing, hacc.surroundings, by rw [hacc.locals], by rw [hacc.locals]⟩
    · have hrej := ht.rejected (runFields_error (ht.surroundings.cfg ▸ hr) (ht.handedFrame_fits hfits))
      have hwhole : b.length - 1 + 1 = (b.map bitSymbol).length := by rw [List.length_map]; omega
      refine ⟨b.length - 1, _, by omega, fun sym hsym => ne_bad_of_mem_map_bitSymbol (List.mem_of_mem_take hsym),
        .inr hwhole, ?_, hrej⟩
      rwa [hwhole, List.take_length]
  | error r =>
    refine ⟨nofun, fun _ _ => ?_⟩
    obtain ⟨b, rest, rfl⟩ := exists_first_bad_of_spellBits hsp
    have hb : b.length < pairCount desc := by
      rw [← hcount]
      simp
    obtain ⟨t, hrun, ht⟩ := run_to_first_bad hbits hcur hb hfits
    have htake : (b.map bitSymbol ++ .bad :: rest).take b.length = b.map bitSymbol :=
      List.take_left' (List.length_map _)
    have htake1 : (b.map bitSymbol ++ .bad :: rest).take (b.length + 1) = b.map bitSymbol ++ [.bad] := by
      simp [List.take_append]
    exact ⟨b.length, t, by simp, fun sym hsym => ne_bad_of_mem_map_bitSymbol (htake ▸ hsym), .inl (by simp),
      htake1 ▸ hrun, ht⟩

end Sys2Proof.Machine
end

section
/-!
What an emission is (41_frame_sync.md): which port operations show an event and of which frame (R152, R153, R156), and
frames fed pulse by pulse (R142 to R149, R154, R155).
-/

namespace Sys2Proof.Machine

/-! ### The record of a port operation (R149, R152) -/

/-- What a PULSE that shows an event has done: it terminated a frame of its mode, and hands it to the classifier. -/
structure Emission (s t : State) (d : Dur) : Prop where
  long : s.cfg.longMinUs < d.toNat
  terminating : s.st = .accum ∧ s.cfg.confirmMode = .singleShot ∧ s.cnt ∈ s.cfg.frameLengths ∨
    s.st = .repeatPending ∧ s.cfg.confirmMode = .double ∧ s.cnt = s.flen
  tolerance : absDiff d (bufRead s 0) ≤ s.cfg.repeatTolUs
  record : ∃ n, t.out = eventRecord s.cfg n (decodeFrame s.cfg (handedFrame s))

section Emission
variable {s t : State} {d : Dur}

theorem handedFrame_singleShot (h : s.cfg.confirmMode = .singleShot) : handedFrame s = s.buf.take s.cnt := by
  simp only [handedFrame, h, bufFrame]

theorem handedFrame_double (h : s.cfg.confirmMode = .double) : handedFrame s = s.fbuf.take s.flen := by
  simp only [handedFrame, h, firstFrame]

/-- In ACCUM only a qualifying pulse in SINGLE_SHOT mode shows an event (R144). -/
theorem emission_of_accum (hst : s.st = .accum) (h : exec (.pulse d) s = .next t) (hv : t.out.evValid = true) :
    Emission s t d := by
  by_cases hl : s.cfg.longMinUs < d.toNat
  · by_cases hq : s.cnt ∈ s.cfg.frameLengths ∧ absDiff d (bufRead s 0) ≤ s.cfg.repeatTolUs
    · cases hm : s.cfg.confirmMode with
      | singleShot =>
        cases (exec_pulse_emit hst hl hq hm).symm.trans h
        exact ⟨hl, .inl ⟨hst, hm, hq.1⟩, hq.2, _, by rw [handedFrame_singleShot hm]; rfl⟩
      | double => cases (exec_pulse_hold hst hl hq hm).symm.trans h; cases hv
    · cases (exec_pulse_restart hst hl hq).symm.trans h; cases hv
  · by_cases hc : s.cnt < s.cfg.maxAccum
    · cases (exec_pulse_append hst hl hc).symm.trans h; cases hv
    · cases (exec_pulse_overflow hst hl hc).symm.trans h; cases hv

/-- In REPEAT_PENDING only a confirming pulse shows an event (R148); the invariant gives the mode. -/
theorem emission_of_repeatPending (hst : s.st = .repeatPending) (hm : s.cfg.confirmMode = .double)
    (h : exec (.pulse d) s = .next t) (hv : t.out.evValid = true) : Emission s t d := by
  by_cases hl : s.cfg.longMinUs < d.toNat
  · by_cases hq : s.cnt = s.flen ∧ absDiff d (bufRead s 0) ≤ s.cfg.repeatTolUs
    · cases (exec_pulse_confirm hst hl hq).symm.trans h
      exact ⟨hl, .inr ⟨hst, hm, hq.1⟩, hq.2, _, by rw [handedFrame_double hm]; rfl⟩
    · cases (exec_pulse_discard hst hl hq).symm.trans h; cases hv
  · by_cases hc : s.cnt < s.cfg.maxAccum
    · cases (exec_pulse_repeatAppend hst hl hc).symm.trans h; cases hv
    · cases (exec_pulse_repeatOverflow hst hl hc).symm.trans h; cases hv

theorem emission_of_pulse (hinv : Inv s) (h : exec (.pulse d) s = .next t) (hv : t.out.evValid = true) :
    Emission s t d := by
  cases hst : s.st with
  | idle =>
    by_cases hl : s.cfg.longMinUs < d.toNat
    · cases (exec_pulse_start hst hl).symm.trans h; cases hv
    · cases (exec_pulse_ignored hst hl).symm.trans h; cases hv
  | accum => exact emission_of_accum hst h hv
  | repeatPending => exact emission_of_repeatPending hst (hinv.pending_mode hst) h hv
  | code3 => exact absurd hst hinv.st_legal

theorem Inv.handedFrame_fits (h : Inv s) : (handedFrame s).length ≤ s.cfg.maxAccum := by
  cases hm : s.cfg.confirmMode with
  | singleShot => rw [handedFrame_singleShot hm, ← h.buf_size]; exact List.length_take_le' _ _
  | double => rw [handedFrame_double hm, ← h.fbuf_size]; exact List.length_take_le' _ _

/-- The record shows the decoding of the handed frame (R149). -/
theorem Emission.shows (h : Emission s t d) (hinv : Inv s) : t.out.Shows (decodeFrame s.cfg (handedFrame s)) := by
  obtain ⟨n, hout⟩ := h.record
  rw [hout]
  exact decodeFrame_shows s.cfg n hinv.handedFrame_fits

/-- Settles O24: only PULSE can show an event, and a record shows one event only. -/
theorem eventsOnlyAtTerminatingPulses : Obligations.EventsOnlyAtTerminatingPulses := by
  intro s t i hinv hi h hv
  cases i <;> simp only [isPortOp, Bool.false_eq_true] at hi
  case reset => cases h; cases hv
  case nop => cases h; cases hv
  case pulse d =>
    have hem := emission_of_pulse hinv h hv
    refine ⟨⟨_, hem.shows hinv, fun ev' => (hem.shows hinv).unique⟩, d, rfl, hem.long, ?_⟩
    exact hem.terminating.imp (fun ⟨hst, hm, _⟩ => ⟨hst, hm⟩) (fun ⟨hst, hm, _⟩ => ⟨hst, hm⟩)

/-! ### The emitted frame (R153, R156) -/

theorem getD_take {l : List Dur} {n i : Nat} (h : i < n) : (l.take n).getD i 0 = l.getD i 0 := by
  simp [List.getD_eq_getElem?_getD, h]

/-- The first `n` entries of a buffer, taken out as a frame: their number, a long pulse and then data pulses (R153). -/
theorem SyncThenData.frame {c : Config} {l : List Dur} {n : Nat} (h : SyncThenData c l n) (hn : 1 ≤ n)
    (hl : n ≤ l.length) :
    (l.take n).length = n ∧ c.longMinUs < ((l.take n).getD 0 0).toNat ∧
      ∀ k, 1 ≤ k → k < (l.take n).length → ¬ c.longMinUs < ((l.take n).getD k 0).toNat := by
  have hlen : (l.take n).length = n := List.length_take_of_le hl
  refine ⟨hlen, ?_, fun k hk hkn => ?_⟩
  · rw [getD_take hn]
    exact isLong_eq_true.1 h.sync
  · rw [hlen] at hkn
    rw [getD_take hkn]
    exact isLong_eq_false.1 (h.data k hk hkn)

/-- What an emission hands on lies at the front of a buffer, and is a frame of known length (R144, R145, R153). -/
theorem Emission.handed (h : Emission s t d) (hinv : Inv s) :
    s.cnt ∈ s.cfg.frameLengths ∧
      ∃ l, handedFrame s = l.take s.cnt ∧ SyncThenData s.cfg l s.cnt ∧ 1 ≤ s.cnt ∧ s.cnt ≤ l.length := by
  obtain ⟨hst, hm, hknown⟩ | ⟨hst, hm, hlen⟩ := h.terminating
  · obtain ⟨hpos, hfits, hpulses⟩ := hinv.accumulating (.inl hst)
    exact ⟨hknown, s.buf, handedFrame_singleShot hm, hpulses, hpos, hinv.buf_size ▸ hfits⟩
  · obtain ⟨hpos, hfits, -⟩ := hinv.accumulating (.inr hst)
    obtain ⟨-, hknown, hpulses, -⟩ := hinv.holdsFirstFrame hst
    rw [← hlen] at hknown hpulses
    exact ⟨lenKnown_eq_true.1 hknown, s.fbuf, hlen ▸ handedFrame_double hm, hpulses, hpos, hinv.fbuf_size ▸ hfits⟩

/-- Settles O25: the frame at the front of its buffer, as the invariant describes it. -/
theorem emittedFramesHaveKnownLength : Obligations.EmittedFramesHaveKnownLength := by
  intro s t d hinv h hv
  have hem := emission_of_pulse hinv h hv
  obtain ⟨hknown, l, hframe, hpulses, hpos, hfits⟩ := hem.handed hinv
  obtain ⟨hlen, hsync, hdata⟩ := hpulses.frame hpos hfits
  rw [← hframe] at hlen hsync hdata
  exact ⟨hem.shows hinv, hlen.symm ▸ hknown, hsync, hdata⟩

/-- Settles O26: the terminating pulse was compared with the buffer's sync pulse, and in DOUBLE mode that one, when it
began the repeat, with the held frame's. -/
theorem emittedFramesAreWithinTolerance : Obligations.EmittedFramesAreWithinTolerance := by
  intro s t d hinv h hv
  have hem := emission_of_pulse hinv h hv
  have htol := hem.tolerance
  obtain ⟨-, -, -, -, hpos, -⟩ := hem.handed hinv
  refine ⟨handedFrame s, hem.shows hinv, fun hm => ?_, fun hm => ?_⟩
  · rw [handedFrame_singleShot hm, getD_take hpos]
    exact ⟨rfl, htol⟩
  · obtain ⟨-, hm', -⟩ | ⟨hst, -, hlen⟩ := hem.terminating
    · cases hm.symm.trans hm'
    · obtain ⟨-, hknown, -, hheld⟩ := hinv.holdsFirstFrame hst
      have hfits : s.flen ≤ s.fbuf.length :=
        hinv.fbuf_size ▸ known_length_fits hinv.config_legal (lenKnown_eq_true.1 hknown)
      rw [handedFrame_double hm, getD_take (hlen ▸ hpos), List.length_take_of_le hfits]
      exact ⟨rfl, hlen, repeatMatch_eq_true.1 hheld, htol⟩

end Emission

/-! ### Pulses that start an accumulation (R142, R146, R148, R154) -/

theorem take_one_set_zero {l : List Dur} (h : l ≠ []) (d : Dur) : (l.set 0 d).take 1 = [d] := by
  cases l with
  | nil => exact absurd rfl h
  | cons => rfl

theorem getD_set_zero {l : List Dur} (h : l ≠ []) (d : Dur) : (l.set 0 d).getD 0 0 = d := by
  cases l with
  | nil => exact absurd rfl h
  | cons => rfl

/-- The next long pulse terminates no frame: there is none, or its length is not the one that counts. -/
def NoFrameToTerminate (s : State) : Prop :=
  s.st = .idle ∨ s.st = .accum ∧ s.cnt ∉ s.cfg.frameLengths ∨ s.st = .repeatPending ∧ s.cnt ≠ s.flen

/-- A long pulse that terminates nothing is the sync pulse of a new accumulation. -/
theorem exec_long_pulse_starts {s : State} {d : Dur} (hl : s.cfg.longMinUs < d.toNat) (hbuf : s.buf ≠ [])
    (h : NoFrameToTerminate s) :
    ∃ t, exec (.pulse d) s = .next t ∧ t.st = .accum ∧ t.cnt = 1 ∧ bufRead t 0 = d ∧ t.out.evValid = false ∧
      t.buf = s.buf.set 0 d ∧ t.cfg = s.cfg := by
  have hsync := getD_set_zero hbuf d
  obtain hst | ⟨hst, hn⟩ | ⟨hst, hn⟩ := h
  · exact ⟨_, exec_pulse_start hst hl, rfl, rfl, hsync, rfl, rfl, rfl⟩
  · exact ⟨_, exec_pulse_restart hst hl (fun hq => hn hq.1), hst, rfl, hsync, rfl, rfl, rfl⟩
  · exact ⟨_, exec_pulse_discard hst hl (fun hq => hn hq.1), rfl, rfl, hsync, rfl, rfl, rfl⟩

/-- After a long pulse in ACCUM the next one terminates nothing, where 1 is no known length: the accumulation was
emitted, or held, or began with this pulse. -/
theorem exec_long_pulse_accum {s : State} {d : Dur} (hst : s.st = .accum) (hl : s.cfg.longMinUs < d.toNat)
    (hone : 1 ∉ s.cfg.frameLengths) :
    ∃ t, exec (.pulse d) s = .next t ∧ NoFrameToTerminate t ∧ t.cfg = s.cfg ∧ t.buf.length = s.buf.length := by
  by_cases hq : s.cnt ∈ s.cfg.frameLengths ∧ absDiff d (bufRead s 0) ≤ s.cfg.repeatTolUs
  · cases hm : s.cfg.confirmMode with
    | singleShot => exact ⟨_, exec_pulse_emit hst hl hq hm, .inl rfl, rfl, rfl⟩
    | double =>
      have hne : 1 ≠ s.cnt := fun h => hone (h ▸ hq.1)
      exact ⟨_, exec_pulse_hold hst hl hq hm, .inr (.inr ⟨rfl, hne⟩), rfl, List.length_set⟩
  · exact ⟨_, exec_pulse_restart hst hl hq, .inr (.inl ⟨hst, hone⟩), rfl, List.length_set⟩

/-- Settles O27: whatever the first long pulse does, the second one terminates nothing. -/
theorem twoLongPulsesRestartFraming : Obligations.TwoLongPulsesRestartFraming := by
  intro s d1 d2 hst hone hbuf hl1 hl2
  obtain hidle | haccum := hst
  · obtain ⟨u, hu, hust, hucnt, -, huev, hset, hcfg⟩ := exec_long_pulse_starts hl1 hbuf (.inl hidle)
    have hnext : NoFrameToTerminate u := .inr (.inl ⟨hust, by rwa [hucnt, hcfg]⟩)
    have hbuf' : u.buf ≠ [] := by simpa [hset] using hbuf
    obtain ⟨t, ht, hst, hcnt, hsync, hev, -, -⟩ := exec_long_pulse_starts (hcfg ▸ hl2) hbuf' hnext
    exact ⟨u, t, hu, ht, hst, hcnt, hsync, hev, fun _ => ⟨hust, hucnt, huev⟩⟩
  · obtain ⟨u, hu, hnext, hcfg, hlen⟩ := exec_long_pulse_accum haccum hl1 hone
    have hbuf' : u.buf ≠ [] := by
      rwa [← List.length_pos_iff, hlen, List.length_pos_iff]
    obtain ⟨t, ht, hst, hcnt, hsync, hev, -, -⟩ := exec_long_pulse_starts (hcfg ▸ hl2) hbuf' hnext
    exact ⟨u, t, hu, ht, hst, hcnt, hsync, hev, fun h => nomatch haccum.symm.trans h⟩

/-! ### A frame fed pulse by pulse (R142 to R144) -/

/-- `u` holds this frame as its accumulation, fed to `s`, and shows no event. -/
structure Assembled (s u : State) (frame : List Dur) : Prop where
  st : u.st = .accum
  no_event : u.out.evValid = false
  cnt : u.cnt = frame.length
  frame : bufFrame u = frame
  fbuf : u.fbuf = s.fbuf
  cfg : u.cfg = s.cfg
  buf_size : u.buf.length = s.buf.length

section Feed
variable {s u : State} {sync d : Dur} {data : List Dur}

/-- A sync pulse and data pulses fed to a block in IDLE are its accumulation. -/
theorem run_frame (hst : s.st = .idle) (hbuf : s.buf.length = s.cfg.maxAccum) (hl : s.cfg.longMinUs < sync.toNat)
    (hdata : ∀ x ∈ data, ¬ s.cfg.longMinUs < x.toNat) (hfits : data.length + 1 ≤ s.cfg.maxAccum) :
    ∃ u, runInstrs (.pulse sync :: data.map .pulse) s = .next u ∧ Assembled s u (sync :: data) := by
  have hne : s.buf ≠ [] := by rw [← List.length_pos_iff]; omega
  obtain ⟨u, hrun, hst', hcnt, hframe, hfbuf, -, hcfg, hsize, hev⟩ :=
    run_data_busy data { startAccum sync (clearEvent s) with st := .accum } (.inl rfl) (List.length_set.trans hbuf)
      hdata (by rw [Nat.add_comm]; exact hfits)
  have hstart : bufFrame { startAccum sync (clearEvent s) with st := .accum } = [sync] := take_one_set_zero hne sync
  exact ⟨u, (runInstrs_cons (exec_pulse_start hst hl)).trans hrun, {
    st := hst'
    no_event := hev (.inr rfl)
    cnt := hcnt.trans (Nat.add_comm 1 _)
    frame := by rw [hframe, hstart]; rfl
    fbuf := hfbuf
    cfg := hcfg
    buf_size := hsize.trans List.length_set }⟩

/-- So is every beginning of a frame. -/
theorem run_frame_take (hst : s.st = .idle) (hbuf : s.buf.length = s.cfg.maxAccum) (hl : s.cfg.longMinUs < sync.toNat)
    (hdata : ∀ x ∈ data, ¬ s.cfg.longMinUs < x.toNat) (hfits : data.length + 1 ≤ s.cfg.maxAccum) (n : Nat) :
    ∃ u, runInstrs (.pulse sync :: (data.take n).map .pulse) s = .next u ∧ Assembled s u (sync :: data.take n) :=
  run_frame hst hbuf hl (fun x hx => hdata x (List.mem_of_mem_take hx))
    ((Nat.add_le_add_right (List.length_take_le' n data) 1).trans hfits)

/-- The sync pulse of an accumulation is the first entry of its frame. -/
theorem bufRead_zero_of_bufFrame (h : bufFrame u = sync :: data) : bufRead u 0 = sync := by
  have hpos : 0 < u.cnt := Nat.pos_of_ne_zero fun h0 => by simp [bufFrame, h0] at h
  rw [bufRead, ← getD_take hpos, ← bufFrame, h]
  rfl

theorem Assembled.sync_eq (h : Assembled s u (sync :: data)) : bufRead u 0 = sync :=
  bufRead_zero_of_bufFrame h.frame

/-- A long pulse within the tolerance of the frame's sync pulse meets the test of R144. -/
theorem Assembled.qualifies (h : Assembled s u (sync :: data)) (hn : data.length + 1 ∈ s.cfg.frameLengths)
    (htol : absDiff d sync ≤ s.cfg.repeatTolUs) :
    u.cnt ∈ u.cfg.frameLengths ∧ absDiff d (bufRead u 0) ≤ u.cfg.repeatTolUs := by
  rw [h.cnt, h.cfg, h.sync_eq]
  exact ⟨hn, htol⟩

/-- In SINGLE_SHOT mode a frame fed from IDLE with its terminating pulse gives its decoding. -/
theorem run_emitted_frame (hc : configLegal s.cfg = true) (hm : s.cfg.confirmMode = .singleShot) (hst : s.st = .idle)
    (hbuf : s.buf.length = s.cfg.maxAccum) (hsync : s.cfg.longMinUs < sync.toNat)
    (hdata : ∀ x ∈ data, ¬ s.cfg.longMinUs < x.toNat) (hn : data.length + 1 ∈ s.cfg.frameLengths)
    (hl : s.cfg.longMinUs < d.toNat) (htol : absDiff d sync ≤ s.cfg.repeatTolUs) :
    ∃ t, runInstrs (.pulse sync :: data.map .pulse ++ [.pulse d]) s = .next t ∧
      t.out.Shows (decodeFrame s.cfg (sync :: data)) ∧ t.st = .idle ∧ t.cnt = 0 ∧ t.cfg = s.cfg ∧
      t.buf.length = s.buf.length := by
  have hfits := known_length_fits hc hn
  obtain ⟨u, hrun, hu⟩ := run_frame hst hbuf hsync hdata hfits
  have he := exec_pulse_emit hu.st (hu.cfg ▸ hl) (hu.qualifies hn htol) (hu.cfg ▸ hm)
  have hshows := emitFrame_shows (s := clearEvent u) (frame := bufFrame u)
    (by rw [hu.frame, clearEvent_cfg, hu.cfg]; exact hfits)
  rw [hu.frame, clearEvent_cfg, hu.cfg] at hshows
  refine ⟨_, (runInstrs_append hrun).trans (runInstrs_single he), ?_, rfl, rfl, hu.cfg, hu.buf_size⟩
  rw [hu.frame]
  exact hshows

/-- Settles O28: the accumulation at each beginning of the frame, and its emission. -/
theorem wholeFrameIsAssembledAndDecoded : Obligations.WholeFrameIsAssembledAndDecoded := by
  intro s sync d data hc hm hst hbuf hsync hdata hn hl htol
  refine ⟨fun n hle => ?_, ?_⟩
  · obtain ⟨u, hrun, hu⟩ := run_frame_take hst hbuf hsync hdata (known_length_fits hc hn) n
    refine ⟨u, hrun, hu.no_event, hu.st, ?_, hu.frame⟩
    rw [hu.cnt, List.length_cons, List.length_take_of_le hle]
  · obtain ⟨t, hrun, hshows, hidle, hcnt, hcfg, -⟩ := run_emitted_frame hc hm hst hbuf hsync hdata hn hl htol
    exact ⟨t, hrun, hshows, hidle, hcnt, hcfg⟩

/-! ### Back-to-back repeats (R155) -/

/-- Settles O30: the pulse that ends the first frame leaves the block in IDLE, so the second frame's data is ignored and
the third's sync pulse starts anew. -/
theorem backToBackRepeatsEmitAlternateFrames : Obligations.BackToBackRepeatsEmitAlternateFrames := by
  intro s s1 s2 s3 s4 data1 data2 data3 hc hm hst _ hbuf hl1 hl2 hl3 hl4 hdata hn1 hn3 htol2 htol4
  simp only [List.forall_mem_append] at hdata
  obtain ⟨⟨hdata1, hdata2⟩, hdata3⟩ := hdata
  obtain ⟨t1, hrun1, hshows1, hst1, -, hcfg1, hsize1⟩ := run_emitted_frame hc hm hst hbuf hl1 hdata1 hn1 hl2 htol2
  rw [← hcfg1] at hc hm hbuf hl3 hl4 hdata2 hdata3 hn3 htol4 hshows1
  obtain ⟨t2, hrun2, hst2, -, hbuf2, -, -, hcfg2, -⟩ := run_data_idle data2 t1 hst1 hdata2
  have hsize2 : t2.buf.length = t2.cfg.maxAccum := by rw [hbuf2, hsize1, hbuf, hcfg2]
  rw [← hcfg2] at hc hm hl3 hl4 hdata3 hn3 htol4
  have hfits3 := known_length_fits hc hn3
  obtain ⟨t3, hrun3, hshows3, hst3, -, -, -⟩ := run_emitted_frame hc hm hst2 hsize2 hl3 hdata3 hn3 hl4 htol4
  rw [hcfg2] at hshows3
  rw [hcfg1] at hshows1 hshows3
  refine ⟨t1, t3, hrun1, hshows1, fun n hpos hle => ?_, ?_, fun n hle => ?_, ?_, hshows3, hst3⟩
  · obtain ⟨u, hrun, hu, -, -, -, -, -, hev⟩ := run_data_idle (data2.take n) t1 hst1
      (fun x hx => hdata2 x (List.mem_of_mem_take hx))
    refine ⟨u, hrun, hu, hev ?_⟩
    rw [← List.length_pos_iff, List.length_take_of_le hle]
    exact hpos
  · obtain ⟨u, hrun, hu⟩ := run_frame_take hst2 hsize2 hl3 hdata3 hfits3 0
    exact ⟨u, (runInstrs_append hrun2).trans hrun, hu.st, hu.cnt, hu.sync_eq, hu.no_event⟩
  · obtain ⟨u, hrun, hu⟩ := run_frame_take hst2 hsize2 hl3 hdata3 hfits3 n
    exact ⟨u, (runInstrs_append hrun2).trans hrun, hu.no_event⟩
  · exact (runInstrs_append hrun2).trans hrun3

/-! ### A confirmed frame (R145, R147, R148) -/

/-- `u` holds this frame as the first one and has `rep` of its repeat, and shows no event. -/
structure Repeating (s u : State) (frame rep : List Dur) : Prop where
  st : u.st = .repeatPending
  no_event : u.out.evValid = false
  first : firstFrame u = frame
  flen : u.flen = frame.length
  cnt : u.cnt = rep.length
  rep : bufFrame u = rep
  cfg : u.cfg = s.cfg
  buf_size : u.buf.length = s.cfg.maxAccum

/-- The pulse that qualifies in DOUBLE mode holds the frame and begins its repeat (R145). -/
theorem Assembled.hold (h : Assembled s u (sync :: data)) (hm : s.cfg.confirmMode = .double)
    (hbuf : s.buf.length = s.cfg.maxAccum) (hfits : data.length + 1 ≤ s.cfg.maxAccum)
    (hn : data.length + 1 ∈ s.cfg.frameLengths) (hl : s.cfg.longMinUs < d.toNat)
    (htol : absDiff d sync ≤ s.cfg.repeatTolUs) :
    ∃ v, exec (.pulse d) u = .next v ∧ Repeating s v (sync :: data) [d] := by
  have hne : u.buf ≠ [] := by rw [← List.length_pos_iff, h.buf_size]; omega
  refine ⟨_, exec_pulse_hold h.st (h.cfg ▸ hl) (h.qualifies hn htol) (h.cfg ▸ hm), {
    st := rfl
    no_event := rfl
    first := ?_
    flen := h.cnt
    cnt := rfl
    rep := take_one_set_zero hne d
    cfg := h.cfg
    buf_size := List.length_set.trans (h.buf_size.trans hbuf) }⟩
  exact (List.take_left' ((congrArg _ h.frame).trans h.cnt.symm)).trans h.frame

/-- Data pulses extend the repeat and leave the first frame (R147). -/
theorem Repeating.run_data {frame rep more : List Dur} (h : Repeating s u frame rep)
    (hdata : ∀ x ∈ more, ¬ s.cfg.longMinUs < x.toNat) (hfits : rep.length + more.length ≤ s.cfg.maxAccum) :
    ∃ v, runInstrs (more.map .pulse) u = .next v ∧ Repeating s v frame (rep ++ more) := by
  rw [← h.cfg, ← h.cnt] at hfits
  rw [← h.cfg] at hdata
  obtain ⟨v, hrun, hst, hcnt, hframe, hfbuf, hflen, hcfg, hsize, hev⟩ :=
    run_data_busy more u (.inr h.st) (h.cfg ▸ h.buf_size) hdata hfits
  exact ⟨v, hrun, {
    st := hst.trans h.st
    no_event := hev (.inr h.no_event)
    first := by rw [firstFrame, hfbuf, hflen]; exact h.first
    flen := hflen.trans h.flen
    cnt := by rw [hcnt, h.cnt, List.length_append]
    rep := by rw [hframe, h.rep]
    cfg := hcfg.trans h.cfg
    buf_size := hsize.trans h.buf_size }⟩

/-- The pulse that closes a repeat of equal length within the tolerance of its sync shows the first frame (R148). -/
theorem Repeating.confirm {frame rep : List Dur} {mid : Dur} (h : Repeating s u frame (mid :: rep))
    (hlen : rep.length + 1 = frame.length) (hfits : frame.length ≤ s.cfg.maxAccum) (hl : s.cfg.longMinUs < d.toNat)
    (htol : absDiff d mid ≤ s.cfg.repeatTolUs) :
    ∃ t, exec (.pulse d) u = .next t ∧ t.out.Shows (decodeFrame s.cfg frame) ∧ t.st = .idle ∧ t.cnt = 0 ∧
      t.flen = 0 := by
  have hq : u.cnt = u.flen ∧ absDiff d (bufRead u 0) ≤ u.cfg.repeatTolUs := by
    rw [h.cnt, h.flen, bufRead_zero_of_bufFrame h.rep, h.cfg]
    exact ⟨hlen, htol⟩
  have hshows := emitFrame_shows (s := clearEvent u) (frame := firstFrame u)
    (by rw [h.first, clearEvent_cfg, h.cfg]; exact hfits)
  refine ⟨_, exec_pulse_confirm h.st (h.cfg ▸ hl) hq, ?_, rfl, rfl, rfl⟩
  rw [h.first, clearEvent_cfg, h.cfg] at hshows
  rw [h.first]
  exact hshows

/-- Settles O29: the first frame is held when its repeat begins, and shown when the repeat ends. -/
theorem confirmedFrameIsTheFirstOne : Obligations.ConfirmedFrameIsTheFirstOne := by
  intro s sync mid d data rep hc hm hst hbuf _ hsync hmid hl hdata hrep hn hlen htolmid htol
  have hfits := known_length_fits hc hn
  have hfits' : [mid].length + rep.length ≤ s.cfg.maxAccum := by rw [hlen, List.length_singleton]; omega
  refine ⟨fun n _ => ?_, ?_⟩
  · obtain ⟨v, hrun, hv⟩ := run_frame_take hst hbuf hsync hdata hfits n
    exact ⟨v, hrun, hv.st, hv.no_event⟩
  · obtain ⟨v, hrun, hv⟩ := run_frame hst hbuf hsync hdata hfits
    obtain ⟨u, hhold, hu⟩ := hv.hold hm hbuf hfits hn hmid htolmid
    obtain ⟨w, hrunw, hw⟩ := hu.run_data hrep hfits'
    obtain ⟨t, hconf, ht⟩ := hw.confirm (congrArg (· + 1) hlen) hfits hl htol
    refine ⟨u, t, (runInstrs_append hrun).trans (runInstrs_single hhold), hu.st, hu.no_event, fun n _ => ?_,
      (runInstrs_append hrunw).trans (runInstrs_single hconf), ht⟩
    obtain ⟨x, hrunx, hx⟩ := hu.run_data (fun y hy => hrep y (List.mem_of_mem_take hy))
      ((Nat.add_le_add_left (List.length_take_le' n rep) _).trans hfits')
    exact ⟨x, hrunx, hx.st, hx.no_event⟩

end Feed

end Sys2Proof.Machine
end

section
/-!
The whole machine: what every field-code row does to the state, what no instruction writes (R36, R39), the invariant
kept by every step (R44), and what no rule reads (R30, R33, R34, R35, R43).
-/

namespace Sys2Proof.Machine

/-! ### Every field-code row (log 3) -/

/-- What a field-code row can do, said once: it writes locals other than the ID, or it accepts an event, legal if the
frame handed on fits the record and the ID among the locals is not the reserved one. -/
inductive FieldCodeEffect (s : State) : State → Prop
  | reads (a : Attempt) (hid : a.id = s.att.id) : FieldCodeEffect s { clearEvent s with att := a }
  | accepts (ev : Event) (a : Attempt)
      (hev : (handedFrame s).length ≤ s.cfg.maxAccum → s.att.id ≠ 0xFF → ev.Legal s.cfg)
      (hid : s.att.id ≠ 0xFF → a.id ≠ 0xFF) : FieldCodeEffect s (acceptEvent ev { clearEvent s with att := a })

section Effects
variable (s : State)

theorem rejectAttempt_effect : FieldCodeEffect s (rejectAttempt (clearEvent s)) := by
  unfold rejectAttempt
  split
  case isTrue => exact .reads { s.att with turn := s.att.turn + 1, bits := [] } rfl
  case isFalse => exact .accepts (.genericSignal (handedFrame s)) s.att (fun hfits _ => hfits) id

/-- A legal event leaves a legal ID among the locals. -/
theorem noteLocals_id {c : Config} {ev : Event} {a : Attempt} (hev : ev.Legal c) (ha : a.id ≠ 0xFF) :
    (noteLocals ev a).id ≠ 0xFF := by
  cases ev with
  | thermometerReading => exact hev
  | switchCommand | genericSignal => exact ha

theorem runFields_effect (l : Layout) (b : List Bool) : FieldCodeEffect s (runFields l b (clearEvent s)) := by
  unfold runFields
  split
  case h_1 ev hok =>
    have hev : ev.Legal s.cfg := layoutFields_ok_legal hok
    exact .accepts ev (noteLocals ev s.att) (fun _ _ => hev) (noteLocals_id hev)
  case h_2 => exact rejectAttempt_effect s

theorem readBit_effect (v : Bool) : FieldCodeEffect s (readBit v (clearEvent s)) := by
  unfold readBit
  split
  case h_1 => exact rejectAttempt_effect s
  case h_2 =>
    split
    case isTrue => exact .reads { s.att with bits := s.att.bits ++ [v] } rfl
    case isFalse => exact runFields_effect s _ _

theorem readChannel_effect (j : Fin 5) (p : List Bool) : FieldCodeEffect s (readChannel j p (clearEvent s)) := by
  unfold readChannel
  split
  case h_1 on _ => exact .reads { s.att with ch := setChannel s.att.ch j on } rfl
  case h_2 => exact rejectAttempt_effect s

theorem readButton_effect (f : List Bool) : FieldCodeEffect s (readButton f (clearEvent s)) := by
  unfold readButton
  split
  case h_1 btn _ => exact .reads { s.att with btn := btn } rfl
  case h_2 => exact rejectAttempt_effect s

theorem readPower_effect (f : List Bool) : FieldCodeEffect s (readPower f (clearEvent s)) := by
  unfold readPower
  split
  case h_1 pwr _ => exact .reads { s.att with pwr := pwr } rfl
  case h_2 => exact rejectAttempt_effect s

theorem readBattery_effect (f : List Bool) : FieldCodeEffect s (readBattery f (clearEvent s)) :=
  .reads { s.att with battLow := thermBattery f } rfl

end Effects

theorem exec_fieldCode_effect {i : Instr} {s t : State} (hi : isPortOp i = false) (h : exec i s = .next t) :
    FieldCodeEffect s t := by
  cases i with
  | reset | pulse | nop => cases hi
  | hpBit0 => cases h; exact readBit_effect s false
  | hpBit1 => cases h; exact readBit_effect s true
  | hpIllegalSS | hpIllegalLL => cases h; exact rejectAttempt_effect s
  | swFrame | thFrame | thIdReserved => cases h; exact runFields_effect s _ _
  | swChOn | swChOff | swChIllegal10 | swChIllegal11 => cases h; exact readChannel_effect s _ _
  | swBtnA | swBtnB | swBtnC | swBtnD | swBtnE | swBtnIllegal => cases h; exact readButton_effect s _
  | swPwrOn | swPwrOff | swPwrIllegal => cases h; exact readPower_effect s _
  | thBattOk | thBattLow => cases h; exact readBattery_effect s _
  | evSwitch => cases h; exact .accepts _ s.att (fun _ _ => trivial) id
  | evThermo => cases h; exact .accepts _ s.att (fun _ hid => hid) id
  | evGeneric => cases h; exact .accepts _ s.att (fun hfits _ => hfits) id
  | evReserved => cases h

theorem FieldCodeEffect.frame {s t : State} (h : FieldCodeEffect s t) : SameFraming s t ∧ SameSurroundings s t := by
  cases h <;> exact ⟨⟨rfl, rfl, rfl, rfl, rfl⟩, ⟨rfl, rfl⟩⟩

/-- Settles O57: neither effect of a field code touches the framing. -/
theorem fieldCodesKeepTheFraming : Obligations.FieldCodesKeepTheFraming := fun _ _ _ hi h =>
  (exec_fieldCode_effect hi h).frame.1

/-- Settles O56, for the port operations and for the field codes. -/
theorem noInstructionWritesTheConfiguration : Obligations.NoInstructionWritesTheConfiguration := by
  intro i s t h
  cases hi : isPortOp i with
  | true => exact (portOp_frame hi h).1
  | false => exact (exec_fieldCode_effect hi h).frame.2

/-! ### The invariant (R44, R45, R271) -/

/-- The reset state of every legal configuration meets the invariant: nothing is accumulated or shown (R45). -/
theorem inv_resetWith {c : Config} (hc : configLegal c = true) : Inv (State.resetWith c) where
  config_legal := hc
  st_legal := nofun
  idle_count _ := rfl
  busy_count := nofun
  busy_sync := nofun
  busy_data := nofun
  pending_mode := nofun
  pending_length := nofun
  pending_sync := nofun
  pending_data := nofun
  pending_tolerance := nofun
  flen_zero _ := rfl
  buf_size := List.length_replicate
  fbuf_size := List.length_replicate
  frame_size := List.length_replicate
  frame_length := Nat.two_pow_pos _
  kind_legal := nofun
  button_legal := nofun
  id_legal := nofun
  local_id_legal := show (0 : BitVec 8) ≠ 0xFF by decide

/-- Settles O54: this hardware's configuration is legal. -/
theorem resetStateMeetsTheInvariant : Obligations.ResetStateMeetsTheInvariant := inv_resetWith (by decide)

/-- Settles O22: RESET keeps the invariant, which says what IDLE holds. -/
theorem resetReachesThePowerUpState : Obligations.ResetReachesThePowerUpState := by
  refine ⟨⟨rfl, rfl, rfl, rfl, by decide⟩, fun s vld dur hinv => ?_⟩
  obtain ⟨t, ht, hinv'⟩ := exec_reset_keeps_inv (d := dur) hinv vld
  cases (exec_reset vld dur s).symm.trans ht
  obtain ⟨hcnt, hflen⟩ := (framingLegal_idle rfl).1 hinv'.framingLegal
  exact ⟨_, exec_reset vld dur s, rfl, hcnt, hflen, rfl, rfl⟩

/-- Settles O23, by the values themselves. -/
theorem hardwareConstants : Obligations.HardwareConstants := by
  unfold Obligations.HardwareConstants
  decide

theorem Inv.withAttempt {s : State} {a : Attempt} (h : Inv s) (ha : a.id ≠ 0xFF) : Inv (s.withAttempt a) :=
  { h with local_id_legal := ha }

/-- Each effect of a field code keeps the invariant: the record it leaves shows a legal event or none. -/
theorem FieldCodeEffect.keeps_inv {s t : State} (h : FieldCodeEffect s t) (hinv : Inv s) : Inv t := by
  cases h with
  | reads a hid =>
    have ha := hinv.withAttempt (hid ▸ hinv.local_id_legal)
    exact ha.of_parts rfl rfl rfl rfl (openRecord_legal _ _) ha.framingLegal
  | accepts ev a hev hid =>
    have ha : Inv (s.withAttempt { a with turn := 0, bits := [] }) := hinv.withAttempt (hid hinv.local_id_legal)
    exact ha.of_parts rfl rfl rfl rfl
      (eventRecord_legal _ (hev hinv.handedFrame_fits hinv.local_id_legal)) ha.framingLegal

theorem exec_keeps_inv {i : Instr} {s t : State} (hinv : Inv s) (h : exec i s = .next t) : Inv t := by
  cases hi : isPortOp i with
  | true =>
    obtain ⟨t', ht', hinv'⟩ := portOp_keeps_inv hi hinv
    cases ht'.symm.trans h
    exact hinv'
  | false => exact (exec_fieldCode_effect hi h).keeps_inv hinv

theorem Inv.fetchWord {s : State} (h : Inv s) : Inv (fetchWord s).2 := by
  cases hin : s.input with
  | nil => rw [fetchWord_of_nil hin]; exact h
  | cons w rest => rw [fetchWord_of_cons hin]; exact h.withInput rest

/-- Settles O55: nothing stops the step, and the instruction keeps the invariant, whatever word it was. -/
theorem everyStepKeepsTheInvariant : Obligations.EveryStepKeepsTheInvariant := by
  intro s t hinv h
  rw [step_of_stopReason_none hinv.stopReason_eq_none] at h
  exact exec_keeps_inv hinv.fetchWord h

/-! ### The locals (R30) -/

section WithAttempt
variable (a : Attempt) (d : Dur) (s : State)

theorem clearEvent_withAttempt : clearEvent (s.withAttempt a) = (clearEvent s).withAttempt a := rfl

theorem qualifies_withAttempt : qualifies d (s.withAttempt a) = qualifies d s := rfl

theorem idlePulse_withAttempt : idlePulse d (s.withAttempt a) = (idlePulse d s).withAttempt a := by
  unfold idlePulse
  rw [withAttempt_cfg]
  split <;> rfl

theorem accumData_withAttempt : accumData d (s.withAttempt a) = (accumData d s).withAttempt a := by
  unfold accumData
  rw [withAttempt_cnt, withAttempt_cfg]
  split <;> rfl

theorem accumLong_withAttempt : accumLong d (s.withAttempt a) = (accumLong d s).withAttempt a := by
  unfold accumLong
  rw [qualifies_withAttempt, withAttempt_cfg]
  split
  · cases s.cfg.confirmMode <;> rfl
  · rfl

theorem repData_withAttempt : repData d (s.withAttempt a) = (repData d s).withAttempt a := by
  unfold repData
  rw [withAttempt_cnt, withAttempt_cfg]
  split <;> rfl

theorem repLong_withAttempt : repLong d (s.withAttempt a) = (repLong d s).withAttempt a := by
  unfold repLong
  rw [show bufRead (s.withAttempt a) 0 = bufRead s 0 from rfl, withAttempt_cnt, withAttempt_flen, withAttempt_cfg]
  split <;> rfl

theorem exec_pulse_withAttempt :
    exec (.pulse d) (s.withAttempt a) = outcomeWithAttempt a (exec (.pulse d) s) := by
  cases hst : s.st with
  | idle =>
    rw [exec_pulse_idle d hst, exec_pulse_idle (s := s.withAttempt a) d hst, clearEvent_withAttempt,
      idlePulse_withAttempt, outcomeWithAttempt]
  | accum =>
    rw [exec_pulse_accum d hst, exec_pulse_accum (s := s.withAttempt a) d hst, clearEvent_withAttempt,
      accumLong_withAttempt, accumData_withAttempt, withAttempt_cfg, outcomeWithAttempt,
      apply_ite (State.withAttempt · a)]
  | repeatPending =>
    rw [exec_pulse_repeatPending d hst, exec_pulse_repeatPending (s := s.withAttempt a) d hst, clearEvent_withAttempt,
      repLong_withAttempt, repData_withAttempt, withAttempt_cfg, outcomeWithAttempt,
      apply_ite (State.withAttempt · a)]
  | code3 =>
    rw [exec_pulse_code3 d hst, exec_pulse_code3 (s := s.withAttempt a) d hst, outcomeWithAttempt]

end WithAttempt

/-- Settles O58: each of PULSE's cases acts beside the locals. -/
theorem portOperationsIgnoreTheLocals : Obligations.PortOperationsIgnoreTheLocals := by
  intro i s a hi
  cases i <;> simp only [isPortOp, Bool.false_eq_true] at hi
  case reset => rfl
  case pulse d => exact exec_pulse_withAttempt a d s
  case nop => rfl

/-! ### Stale entries and free values (R33, R34, R35, R43) -/

/-- Two records without an event are alike, whatever free values they hold (R35). -/
theorem SameShown.of_invalid {o p : OutRecord} (ho : o.evValid = false) (hp : p.evValid = false) : SameShown o p where
  valid := ho.trans hp.symm
  event ev := iff_of_false (not_shows_of_invalid ho ev) (not_shows_of_invalid hp ev)

/-- Two records that show the same event are alike, as a record shows one event only. -/
theorem SameShown.of_shows {o p : OutRecord} {ev : Event} (ho : o.Shows ev) (hp : p.Shows ev) : SameShown o p where
  valid := ho.valid.trans hp.valid.symm
  event ev' := by
    constructor
    · intro h; rwa [ho.unique h]
    · intro h; rwa [hp.unique h]

/-- The records of one emission in two states are alike: the draw fills unshown fields only (R92). -/
theorem SameShown.of_emission {c c' : Config} {frame frame' : List Dur} (hc : c' = c) (hf : frame' = frame)
    (h : frame.length ≤ c.maxAccum) (n m : Nat) :
    SameShown (eventRecord c n (decodeFrame c frame)) (eventRecord c' m (decodeFrame c' frame')) := by
  subst hc hf
  exact .of_shows (decodeFrame_shows _ n h) (decodeFrame_shows _ m h)

/-- An instruction goes on from both states, to states and records that are alike again. -/
def StepsAlike (i : Instr) (s t : State) : Prop :=
  ∃ s' t', exec i s = .next s' ∧ exec i t = .next t' ∧ SameLive s' t' ∧ SameShown s'.out t'.out

section Stale
variable {s t : State} {d : Dur}

theorem SameLive.sync (h : SameLive s t) (hpos : 1 ≤ s.cnt) : bufRead t 0 = bufRead s 0 := by
  have hlive := h.buf_live
  rw [h.cnt] at hlive
  rw [bufRead, bufRead, ← getD_take hpos, hlive, getD_take hpos]

/-- Two buffers of one size agree on an accumulation just started. -/
theorem take_one_set_zero_congr {l m : List Dur} (h : l.length = m.length) :
    (l.set 0 d).take 1 = (m.set 0 d).take 1 := by
  cases l <;> cases m <;> simp at h ⊢

/-- Appending one pulse keeps the live part of two buffers alike. -/
theorem SameLive.append (h : SameLive s t) (hroom : s.cnt < s.buf.length) :
    (t.buf.set t.cnt d).take (t.cnt + 1) = (s.buf.set s.cnt d).take (s.cnt + 1) := by
  rw [bufFrame_append d hroom, bufFrame_append d (by rw [h.cnt, h.buf_size]; exact hroom)]
  exact congrArg (· ++ [d]) h.buf_live

/-- The tests of a terminating pulse read live entries only (R144, R148). -/
theorem SameLive.qualifies_iff (h : SameLive s t) (hpos : 1 ≤ s.cnt) :
    (t.cnt ∈ t.cfg.frameLengths ∧ absDiff d (bufRead t 0) ≤ t.cfg.repeatTolUs) ↔
      (s.cnt ∈ s.cfg.frameLengths ∧ absDiff d (bufRead s 0) ≤ s.cfg.repeatTolUs) := by
  rw [h.cnt, h.cfg, h.sync hpos]

theorem SameLive.confirms_iff (h : SameLive s t) (hpos : 1 ≤ s.cnt) :
    (t.cnt = t.flen ∧ absDiff d (bufRead t 0) ≤ t.cfg.repeatTolUs) ↔
      (s.cnt = s.flen ∧ absDiff d (bufRead s 0) ≤ s.cfg.repeatTolUs) := by
  rw [h.cnt, h.flen, h.cfg, h.sync hpos]

/-- The frame copied over another buffer leaves it as long as it was (R145). -/
theorem length_bufFrame_append_drop {l : List Dur} (hl : s.cnt ≤ l.length) (hb : s.cnt ≤ s.buf.length) :
    (bufFrame s ++ l.drop s.cnt).length = l.length := by
  simp [bufFrame]; omega

theorem take_bufFrame_append {l : List Dur} (hb : s.cnt ≤ s.buf.length) :
    (bufFrame s ++ l).take s.cnt = bufFrame s := List.take_left' (List.length_take_of_le hb)

theorem SameLive.hold (h : SameLive s t) (hb : s.cnt ≤ s.buf.length) (hf : s.cnt ≤ s.fbuf.length) :
    SameLive (doubleFirst d (clearEvent s)) (doubleFirst d (clearEvent t)) := by
  have hb' : t.cnt ≤ t.buf.length := by rwa [h.cnt, h.buf_size]
  have hf' : t.cnt ≤ t.fbuf.length := by rwa [h.cnt, h.fbuf_size]
  exact {
    st := rfl
    cnt := rfl
    flen := h.cnt
    cfg := h.cfg
    buf_size := by simp [doubleFirst, h.buf_size]
    fbuf_size := (length_bufFrame_append_drop hf' hb').trans
      (h.fbuf_size.trans (length_bufFrame_append_drop hf hb).symm)
    buf_live := take_one_set_zero_congr h.buf_size
    fbuf_live := (take_bufFrame_append hb').trans (h.buf_live.trans (take_bufFrame_append hb).symm) }

theorem SameLive.pulse_idle (h : SameLive s t) (hst : s.st = .idle) : StepsAlike (.pulse d) s t := by
  have hst' : t.st = .idle := h.st.trans hst
  by_cases hl : s.cfg.longMinUs < d.toNat
  · exact ⟨_, _, exec_pulse_start hst hl, exec_pulse_start hst' (h.cfg ▸ hl),
      ⟨rfl, rfl, h.flen, h.cfg, by simp [h.buf_size], h.fbuf_size, take_one_set_zero_congr h.buf_size, h.fbuf_live⟩,
      .of_invalid rfl rfl⟩
  · exact ⟨_, _, exec_pulse_ignored hst hl, exec_pulse_ignored hst' (h.cfg ▸ hl),
      ⟨h.st, h.cnt, h.flen, h.cfg, h.buf_size, h.fbuf_size, h.buf_live, h.fbuf_live⟩, .of_invalid rfl rfl⟩

theorem SameLive.pulse_accum (h : SameLive s t) (hinv : Inv s) (hst : s.st = .accum) : StepsAlike (.pulse d) s t := by
  have hst' : t.st = .accum := h.st.trans hst
  obtain ⟨hpos, hfits, -⟩ := hinv.accumulating (.inl hst)
  by_cases hl : s.cfg.longMinUs < d.toNat
  · have hl' : t.cfg.longMinUs < d.toNat := h.cfg ▸ hl
    by_cases hq : s.cnt ∈ s.cfg.frameLengths ∧ absDiff d (bufRead s 0) ≤ s.cfg.repeatTolUs
    · have hq' := (h.qualifies_iff hpos).2 hq
      cases hm : s.cfg.confirmMode with
      | singleShot =>
        exact ⟨_, _, exec_pulse_emit hst hl hq hm, exec_pulse_emit hst' hl' hq' (h.cfg ▸ hm),
          ⟨rfl, rfl, h.flen, h.cfg, h.buf_size, h.fbuf_size, rfl, h.fbuf_live⟩,
          .of_emission h.cfg h.buf_live (hinv.buf_size ▸ List.length_take_le' s.cnt s.buf) _ _⟩
      | double =>
        exact ⟨_, _, exec_pulse_hold hst hl hq hm, exec_pulse_hold hst' hl' hq' (h.cfg ▸ hm),
          h.hold (hinv.buf_size ▸ hfits) (hinv.fbuf_size ▸ hfits), .of_invalid rfl rfl⟩
    · exact ⟨_, _, exec_pulse_restart hst hl hq, exec_pulse_restart hst' hl' ((h.qualifies_iff hpos).not.2 hq),
        ⟨h.st, rfl, h.flen, h.cfg, by simp [h.buf_size], h.fbuf_size, take_one_set_zero_congr h.buf_size, h.fbuf_live⟩,
        .of_invalid rfl rfl⟩
  · have hl' : ¬ t.cfg.longMinUs < d.toNat := h.cfg ▸ hl
    by_cases hc : s.cnt < s.cfg.maxAccum
    · exact ⟨_, _, exec_pulse_append hst hl hc, exec_pulse_append hst' hl' (by rwa [h.cnt, h.cfg]),
        ⟨h.st, congrArg (· + 1) h.cnt, h.flen, h.cfg, by simp [h.buf_size], h.fbuf_size,
          h.append (hinv.buf_size ▸ hc), h.fbuf_live⟩, .of_invalid rfl rfl⟩
    · exact ⟨_, _, exec_pulse_overflow hst hl hc, exec_pulse_overflow hst' hl' (by rwa [h.cnt, h.cfg]),
        ⟨rfl, rfl, h.flen, h.cfg, h.buf_size, h.fbuf_size, rfl, h.fbuf_live⟩, .of_invalid rfl rfl⟩

theorem SameLive.pulse_repeatPending (h : SameLive s t) (hinv : Inv s) (hst : s.st = .repeatPending) :
    StepsAlike (.pulse d) s t := by
  have hst' : t.st = .repeatPending := h.st.trans hst
  have hpos := (hinv.accumulating (.inr hst)).pos
  by_cases hl : s.cfg.longMinUs < d.toNat
  · have hl' : t.cfg.longMinUs < d.toNat := h.cfg ▸ hl
    by_cases hq : s.cnt = s.flen ∧ absDiff d (bufRead s 0) ≤ s.cfg.repeatTolUs
    · exact ⟨_, _, exec_pulse_confirm hst hl hq, exec_pulse_confirm hst' hl' ((h.confirms_iff hpos).2 hq),
        ⟨rfl, rfl, rfl, h.cfg, h.buf_size, h.fbuf_size, rfl, rfl⟩,
        .of_emission h.cfg h.fbuf_live (hinv.fbuf_size ▸ List.length_take_le' s.flen s.fbuf) _ _⟩
    · exact ⟨_, _, exec_pulse_discard hst hl hq, exec_pulse_discard hst' hl' ((h.confirms_iff hpos).not.2 hq),
        ⟨rfl, rfl, rfl, h.cfg, by simp [h.buf_size], h.fbuf_size, take_one_set_zero_congr h.buf_size, rfl⟩,
        .of_invalid rfl rfl⟩
  · have hl' : ¬ t.cfg.longMinUs < d.toNat := h.cfg ▸ hl
    by_cases hc : s.cnt < s.cfg.maxAccum
    · exact ⟨_, _, exec_pulse_repeatAppend hst hl hc, exec_pulse_repeatAppend hst' hl' (by rwa [h.cnt, h.cfg]),
        ⟨h.st, congrArg (· + 1) h.cnt, h.flen, h.cfg, by simp [h.buf_size], h.fbuf_size,
          h.append (hinv.buf_size ▸ hc), h.fbuf_live⟩, .of_invalid rfl rfl⟩
    · exact ⟨_, _, exec_pulse_repeatOverflow hst hl hc, exec_pulse_repeatOverflow hst' hl' (by rwa [h.cnt, h.cfg]),
        ⟨rfl, rfl, rfl, h.cfg, h.buf_size, h.fbuf_size, rfl, rfl⟩, .of_invalid rfl rfl⟩

/-- RESET clears the counts, or leaves `flen` and the held frame alone (R150). -/
theorem SameLive.reset (h : SameLive s t) (vld : Bool) : StepsAlike (.reset vld d) s t := by
  refine ⟨_, _, exec_reset vld d s, exec_reset vld d t, ?_, .of_invalid rfl rfl⟩
  have hflen : (if t.cfg.confirmMode = .double then 0 else t.flen) =
      if s.cfg.confirmMode = .double then 0 else s.flen := by rw [h.cfg, h.flen]
  refine ⟨rfl, rfl, hflen, h.cfg, h.buf_size, h.fbuf_size, rfl, ?_⟩
  rw [hflen]
  split
  · rfl
  · exact h.flen ▸ h.fbuf_live

/-- A port operation goes on alike from two states that differ in stale values only. -/
theorem SameLive.portOp {i : Instr} (h : SameLive s t) (hinv : Inv s) (hi : isPortOp i = true) : StepsAlike i s t := by
  cases i <;> simp only [isPortOp, Bool.false_eq_true] at hi
  case reset vld _ => exact h.reset vld
  case nop =>
    exact ⟨_, _, rfl, rfl, ⟨h.st, h.cnt, h.flen, h.cfg, h.buf_size, h.fbuf_size, h.buf_live, h.fbuf_live⟩,
      .of_invalid rfl rfl⟩
  case pulse d =>
    cases hst : s.st with
    | idle => exact h.pulse_idle hst
    | accum => exact h.pulse_accum hinv hst
    | repeatPending => exact h.pulse_repeatPending hinv hst
    | code3 => exact absurd hst hinv.st_legal

end Stale

/-- Settles O59: the tests of every case read live entries only, and every case writes live entries alike. -/
theorem staleStateIsUnobservable : Obligations.StaleStateIsUnobservable := by
  intro i s t s' hinv hlive hi h
  obtain ⟨u, t', hu, ht, hlive', hshown⟩ := hlive.portOp hinv hi
  cases hu.symm.trans h
  exact ⟨t', ht, hlive', hshown⟩

end Sys2Proof.Machine
end
